-- ==== Sys2Proof/Word.lean ====
section
/-! DEFINITION. The words of the block: the widths that 00_scope.md R5, R6 and 30_encoding.md R50 give. -/

namespace Sys2Proof

/-- A 64-bit unsigned number: every numeric field of the counter and of a ratio (R5), and a timestamp
(`TSLEN = 64`, R6). -/
abbrev Word := BitVec 64

/-- The command byte (R51). -/
abbrev Cmd := BitVec 8

/-- The `ticks` result port (R50). -/
abbrev Ticks := BitVec 128

/-- The sticky `status` word (R21). -/
abbrev Status := BitVec 5

/-- `MAX64 = 2^64 - 1` (R7). -/
abbrev MAX64 : Nat := 2 ^ 64 - 1

end Sys2Proof
end

