-- ==== Sys2Proof/Syntax.lean ====
section
/-! DEFINITION. What the block is given: counting modes, operations (one constructor for each row of
spec/opcode_table.json) and command bundles. -/

namespace Sys2Proof

/-- The wrap modes of R18. The reserved tag 3 is "never held by the field", so it is no mode. -/
inductive Mode where
  | sawtooth
  | triangle
  | countdown
deriving DecidableEq, Repr, Inhabited

/-- A clock ratio (R10): an operand, as the provider returned it, not reduced (R56). -/
structure Ratio where
  num : Word
  den : Word
deriving DecidableEq, Repr

/-- The formats of R52: which ports an operation reads and what `sel` means. -/
inductive Format where
  | n | t | r | w | m | f
deriving DecidableEq, Repr

/-- The twelve primitive operations of R53, with the operands of their formats (R52). -/
inductive Instr where
  /-- `ACTUALIZE now, num/den` (R73). -/
  | actualize (now num den : Word)
  /-- `REARM now, num/den` (R90). -/
  | rearm (now num den : Word)
  /-- `EXPIRE now` (R98). -/
  | expire (now : Word)
  /-- `CANCEL` (R97). -/
  | cancel
  /-- `START now` (R105). -/
  | start (now : Word)
  /-- `STOP` (R106). -/
  | stop
  /-- `RESET now` (R107). -/
  | reset (now : Word)
  /-- `SETLIMIT value` (R108). -/
  | setlimit (wdata : Word)
  /-- `SETMODE tag` (R109); tag 3 is refused by the operation. -/
  | setmode (tag : BitVec 2)
  /-- `LOAD value` (R110). -/
  | load (wdata : Word)
  /-- `READ` (R111). -/
  | read
  /-- `RDF sel` (R112); selectors above 8 are refused by the operation. -/
  | rdf (sel : BitVec 4)
deriving DecidableEq, Repr

/-- One command bundle (R50): the command byte and the four operand ports, all sampled together. -/
structure Bundle where
  cmd : Cmd
  now : Word
  num : Word
  den : Word
  wdata : Word
deriving DecidableEq, Repr

/-- The format of each operation (R52, R53). -/
def Instr.format : Instr → Format
  | .actualize _ _ _ => .r
  | .rearm _ _ _ => .r
  | .expire _ => .t
  | .cancel => .n
  | .start _ => .t
  | .stop => .n
  | .reset _ => .t
  | .setlimit _ => .w
  | .setmode _ => .m
  | .load _ => .w
  | .read => .n
  | .rdf _ => .f

end Sys2Proof
end

