-- ==== Sys2Proof/Decode.lean ====
section
/-! DEFINITION. The decoder of 30_encoding.md R51 to R57, and after it the encoder. Only the command byte
decides the operation (R61); operands are taken whole from their ports (R56). -/

namespace Sys2Proof

/-- Why a command byte matches no row of R53 (R57). All three raise `IllegalCommand`. -/
inductive DecodeError where
  /-- `op` is `0x0`, `0xD`, `0xE` or `0xF`. -/
  | unassignedOp (op : BitVec 4)
  /-- A format N, T, R or W operation with `sel != 0`. -/
  | selNotZero (op sel : BitVec 4)
  /-- `SETMODE` with `sel[3:2] != 0`. -/
  | modeBitsNotZero (sel : BitVec 4)
deriving DecidableEq, Repr

/-- `cmd[7:4]` (R51). -/
def opField (cmd : Cmd) : BitVec 4 := cmd.extractLsb' 4 4

/-- `cmd[3:0]` (R51). -/
def selField (cmd : Cmd) : BitVec 4 := cmd.extractLsb' 0 4

/-- Accept `i` only when `sel` is zero, as formats N, T, R and W require (R52). -/
def needSelZero (op sel : BitVec 4) (i : Instr) : Except DecodeError Instr :=
  if sel = 0 then .ok i else .error (.selNotZero op sel)

/-- Format M (R52): the mode tag is `sel[1:0]`, and `sel[3:2]` must be zero. -/
def decodeSetmode (sel : BitVec 4) : Except DecodeError Instr :=
  if sel.extractLsb' 2 2 = 0 then .ok (.setmode (sel.extractLsb' 0 2)) else .error (.modeBitsNotZero sel)

/-- The decoder: the opcode map of R53, total, every byte outside it rejected by name (R57). -/
def decode (b : Bundle) : Except DecodeError Instr :=
  let op := opField b.cmd
  let sel := selField b.cmd
  match op.toNat with
  | 0x1 => needSelZero op sel (.actualize b.now b.num b.den)
  | 0x2 => needSelZero op sel (.rearm b.now b.num b.den)
  | 0x3 => needSelZero op sel (.expire b.now)
  | 0x4 => needSelZero op sel .cancel
  | 0x5 => needSelZero op sel (.start b.now)
  | 0x6 => needSelZero op sel .stop
  | 0x7 => needSelZero op sel (.reset b.now)
  | 0x8 => needSelZero op sel (.setlimit b.wdata)
  | 0x9 => decodeSetmode sel
  | 0xA => needSelZero op sel (.load b.wdata)
  | 0xB => needSelZero op sel .read
  | 0xC => .ok (.rdf sel)
  | _ => .error (.unassignedOp op)

/-- The command byte of an operation (R53): `op` above `sel`. -/
def Instr.cmdByte : Instr → Cmd
  | .actualize _ _ _ => 0x10
  | .rearm _ _ _ => 0x20
  | .expire _ => 0x30
  | .cancel => 0x40
  | .start _ => 0x50
  | .stop => 0x60
  | .reset _ => 0x70
  | .setlimit _ => 0x80
  | .setmode tag => 0b100100#6 ++ tag
  | .load _ => 0xA0
  | .read => 0xB0
  | .rdf sel => 0xC#4 ++ sel

/-- The encoder: the bundle that issues an operation, with every port its format does not list at 0
(R52: such a port may hold any value). -/
def encode (i : Instr) : Bundle :=
  match i with
  | .actualize now num den => ⟨i.cmdByte, now, num, den, 0⟩
  | .rearm now num den => ⟨i.cmdByte, now, num, den, 0⟩
  | .expire now => ⟨i.cmdByte, now, 0, 0, 0⟩
  | .cancel => ⟨i.cmdByte, 0, 0, 0, 0⟩
  | .start now => ⟨i.cmdByte, now, 0, 0, 0⟩
  | .stop => ⟨i.cmdByte, 0, 0, 0, 0⟩
  | .reset now => ⟨i.cmdByte, now, 0, 0, 0⟩
  | .setlimit wdata => ⟨i.cmdByte, 0, 0, 0, wdata⟩
  | .setmode _ => ⟨i.cmdByte, 0, 0, 0, 0⟩
  | .load wdata => ⟨i.cmdByte, 0, 0, 0, wdata⟩
  | .read => ⟨i.cmdByte, 0, 0, 0, 0⟩
  | .rdf _ => ⟨i.cmdByte, 0, 0, 0, 0⟩

/-- `fmt` lists the port `now` (R52). -/
def Format.readsNow (fmt : Format) : Bool := fmt == .t || fmt == .r

/-- `fmt` lists the ports `num` and `den` (R52). -/
def Format.readsRatio (fmt : Format) : Bool := fmt == .r

/-- `fmt` lists the port `wdata` (R52). -/
def Format.readsWdata (fmt : Format) : Bool := fmt == .w

/-- Two bundles that a format cannot tell apart: the same byte and the same listed ports (R52). -/
abbrev Format.SameListed (fmt : Format) (b c : Bundle) : Prop :=
  b.cmd = c.cmd ∧ (fmt.readsNow = true → b.now = c.now) ∧
    (fmt.readsRatio = true → b.num = c.num ∧ b.den = c.den) ∧ (fmt.readsWdata = true → b.wdata = c.wdata)

/-- The bundle whose command byte is `w` and whose ports are all 0: the table numbers only the bits of
the command byte (DESIGN CHOICE, log 10). -/
def tableBundle (w : Nat) : Bundle := ⟨BitVec.ofNat 8 w, 0, 0, 0, 0⟩

/-- The operation the decoder reads from a row of the opcode table whose bits are `w`. A row is the one
command byte (R51), so any other width, and a number that is no byte, is no row. -/
def decodeTableWord (nbits w : Nat) : Option Instr :=
  if nbits = 8 ∧ w < 256 then
    match decode (tableBundle w) with
    | .ok i => some i
    | .error _ => none
  else none

end Sys2Proof
end

