-- ==== Sys2Proof/Config.lean ====
section
/-! DEFINITION. The OPEN parameters of 00_scope.md R6 that an instance is made with. None is an opaque
constant: the model takes each as an argument (a field of the state or of `Creation`), so a claim
quantifies over it and a run can still be computed. -/

namespace Sys2Proof

/-- `REM_ROUND` (R6, D7): the rounding of the remainder step of R71. -/
inductive Rounding where
  | ceil
  | floor
deriving DecidableEq, Repr, Inhabited

/-- The values R29 leaves OPEN or unspecified when an instance is created, and `REM_ROUND`. -/
structure Creation where
  /-- `T0`, the host time of creation. -/
  t0 : Word
  /-- `INIT_LIMIT`. -/
  initLimit : Word
  /-- `INIT_MODE`. -/
  initMode : Mode
  /-- `target` at creation, "unspecified (any value)". -/
  initTarget : Word
  /-- `REM_ROUND`. -/
  remRound : Rounding
deriving DecidableEq, Repr

end Sys2Proof
end

