-- ==== Sys2Proof/Machine/State.lean ====
section
/-! DEFINITION. The state of one instance of the block, as plain data, and its values at creation. -/

namespace Sys2Proof.Machine

/-- The result codes of 30_encoding.md R60. Codes 5 to 7 are never returned. -/
inductive Err where
  /-- Code 0. -/
  | ok
  /-- Code 1 (R145). -/
  | timeRegression
  /-- Code 2 (R147). -/
  | overflow
  /-- Code 3 (R148). -/
  | illegalCommand
  /-- Code 4 (R149). -/
  | spuriousExpire
deriving DecidableEq, Repr

/-- The result ports of R50, as one operation leaves them. -/
structure Results where
  err : Err
  event : Bool
  ticks : Ticks
  rdata : Word
deriving DecidableEq, Repr

/-- The results of an operation that returns `OK` and nothing else. -/
def Results.plain : Results := ⟨.ok, false, 0, 0⟩

/-- One instance of the block. The first nine fields are the field file of 10_state.md R12, in the order
of their selectors; the last three are the model's own (log 1, 3, 4). -/
structure State where
  /-- Selector 0 (R13). -/
  count : Word
  /-- Selector 1 (R14). -/
  limit : Word
  /-- Selector 2, `accumulatedHostCycles` (R15). -/
  acc : Word
  /-- Selector 3, `lastActualizedAt` (R16). -/
  last : Word
  /-- Selector 4 (R17): `true` is Running, `false` is Stopped (R32). -/
  running : Bool
  /-- Selector 5 (R18). -/
  mode : Mode
  /-- Selector 6 (R19); also a level output (R50). -/
  armed : Bool
  /-- Selector 7, `targetHostCycle` (R20); also a level output (R50). -/
  target : Word
  /-- Selector 8 (R21), sticky (R22). -/
  status : Status
  /-- The result ports as the last operation left them (DESIGN CHOICE, log 3). No operation reads it. -/
  out : Results
  /-- `REM_ROUND` (R6), fixed for the instance (DESIGN CHOICE, log 4). No operation writes it. -/
  remRound : Rounding
  /-- The bundles issued and not yet executed, in the order of issue (R45; DESIGN CHOICE, log 1). -/
  pending : List Bundle
deriving DecidableEq, Repr

/-- Reasons to stop with a fault. There are none, and so no constructor: an error of this block is a
raise, after which "the next operation proceeds normally" (60_exceptions.md R146; DEDUCED, log 12: safe
and unsafe do not arise, because nothing stops). -/
inductive Fault
deriving DecidableEq, Repr

/-- Reasons to refuse an operation. -/
inductive Refusal where
  /-- Raised only by an arm of `exec` whose instruction has no meaning yet (safe). Every arm has one, so
  nothing raises it. -/
  | notModelled (mnemonic : String)
deriving DecidableEq, Repr

/-- What an operation or a step answers. -/
abbrev Outcome := Host.Outcome State Fault Refusal

/-- An instance just created (10_state.md R29), for any value of what R29 leaves open. No operation has
been issued (log 1) and the result ports are at rest (log 3). -/
def State.created (c : Creation) : State where
  count := 0
  limit := c.initLimit
  acc := 0
  last := c.t0
  running := false
  mode := c.initMode
  armed := false
  target := c.initTarget
  status := 0
  out := .plain
  remRound := c.remRound
  pending := []

/-- The machine right after creation (R29, 70_reset_and_hazards.md R165). The values of `limit`, `mode`,
`last` and `target` are DESIGN CHOICES, unsafe (log 5 to 8); the rounding is the default of R6 (log 4). -/
def State.reset : State := State.created ⟨0, 0, .sawtooth, 0, .ceil⟩

end Sys2Proof.Machine
end

