-- ==== Sys2Proof/Machine/Flags.lean ====
section
/-! DEFINITION. The `status` word of 10_state.md R21 and the error codes of 30_encoding.md R60. -/

namespace Sys2Proof.Machine

/-- The code on the `err` port (R60). -/
def Err.code : Err → BitVec 3
  | .ok => 0
  | .timeRegression => 1
  | .overflow => 2
  | .illegalCommand => 3
  | .spuriousExpire => 4

/-- The sticky bit an error sets (R21, R60); `OK` sets none. -/
def Err.statusBit : Err → Status
  | .ok => 0b00000
  | .timeRegression => 0b00001
  | .overflow => 0b00010
  | .illegalCommand => 0b00100
  | .spuriousExpire => 0b01000

/-- `STALL_LOGGED`, bit 4 (R21, R150). -/
def stallLogged : Status := 0b10000

/-- The fault bits `status[3:0]` (R22). -/
def faultBits (st : Status) : BitVec 4 := st.extractLsb' 0 4

/-- Set bits of `status`; a set bit is never cleared (R22). -/
def State.log (s : State) (bits : Status) : State := { s with status := s.status ||| bits }

end Sys2Proof.Machine
end

