-- ==== Sys2Proof/Machine/Operands.lean ====
section
/-! DEFINITION. The operand forms: the ratio, the mode tag and the field selector. `now` and `wdata` are
one unsigned 64-bit number each, taken whole (30_encoding.md R56). -/

namespace Sys2Proof.Machine

/-- An unconfigured ratio (10_state.md R11). -/
def unconfigured (num den : Word) : Bool := num == 0 || den == 0

/-- The mode a tag names (R54); `0b11` names none. -/
def modeOfTag (tag : BitVec 2) : Option Mode :=
  match tag.toNat with
  | 0 => some .sawtooth
  | 1 => some .triangle
  | 2 => some .countdown
  | _ => none

/-- The tag of a mode: the value the 2-bit field holds (R18, R54). -/
def modeTag : Mode → BitVec 2
  | .sawtooth => 0
  | .triangle => 1
  | .countdown => 2

/-- A 1-bit field, zero-extended (R43). -/
def wordOfBit (b : Bool) : Word := if b then 1 else 0

/-- `x[sel]`, zero-extended to 64 bits (R12, R43, R112); selectors 9 to 15 name no field. -/
def readField (s : State) (sel : BitVec 4) : Option Word :=
  match sel.toNat with
  | 0 => some s.count
  | 1 => some s.limit
  | 2 => some s.acc
  | 3 => some s.last
  | 4 => some (wordOfBit s.running)
  | 5 => some ((modeTag s.mode).zeroExtend 64)
  | 6 => some (wordOfBit s.armed)
  | 7 => some s.target
  | 8 => some (s.status.zeroExtend 64)
  | _ => none

end Sys2Proof.Machine
end

