-- ==== Sys2Proof/Machine/Ops.lean ====
section
/-! DEFINITION. The shared operations: completing and raising, the rational conversion, the counting
modes, the deadline and the issue of a bundle. Arithmetic is exact over `Nat` and narrowed only when a
value is stored (92_eei_decisions.md D8). -/

namespace Sys2Proof.Machine

/-! ## Ending an operation (20_memory.md R44) -/

/-- Complete with results `r`: the state is written, the result ports hold `r`. -/
def complete (r : Results) (s : State) : Outcome := .next { s with out := r }

/-- Complete with `OK` and no other result. -/
def completeOk (s : State) : Outcome := complete .plain s

/-- `raise e` (60_exceptions.md R146): no field changes but the sticky bit of `e`; the results are
`err = e` and zeros. This is the block's whole "exception": it saves nothing and jumps nowhere, and
there is no return from it (R152, R153). -/
def raise (e : Err) (s : State) : Outcome := complete ⟨e, false, 0, 0⟩ (s.log e.statusBit)

/-! ## Integer functions (00_scope.md R7) -/

/-- `ceil(a/b)` for `b > 0`. -/
def ceilDiv (a b : Nat) : Nat := (a + b - 1) / b

/-- `div_R(a, b)`: the division of the remainder step, rounded as `REM_ROUND` says. -/
def divRound : Rounding → Nat → Nat → Nat
  | .ceil, a, b => ceilDiv a b
  | .floor, a, b => a / b

/-! ## The rational conversion (40_actualizer.md R71) -/

/-- What `Convert` returns: the device ticks and the host cycles carried on. -/
structure Converted where
  ticks : Nat
  acc : Nat
deriving DecidableEq, Repr

/-- `Convert(a, num, den)` (R71), for `num`, `den` at least 1. The subtraction does not go below 0
(R72 item 1). -/
def convert (r : Rounding) (a num den : Nat) : Converted where
  ticks := a * num / den
  acc := a - divRound r (a * num / den * den) num

/-- The host cycles to convert at `now`: `acc + (now - last)` (R76), for `now` at least `last`. -/
def cyclesAt (now : Word) (s : State) : Nat := s.acc.toNat + (now.toNat - s.last.toNat)

/-! ## The counting modes (R78 to R81) -/

/-- The effective limit, which is also `Span` (R73, R23): `2*limit` in Triangle mode, else `limit`. -/
def effectiveLimit : Mode → Nat → Nat
  | .triangle, limit => 2 * limit
  | .sawtooth, limit => limit
  | .countdown, limit => limit

/-- The new count and whether a boundary was crossed. -/
structure Advanced where
  count : Nat
  event : Bool
deriving DecidableEq, Repr

/-- Countdown (R78): at most one event, and ticks beyond `count` are dropped. -/
def advanceDown (count ticks : Nat) : Advanced :=
  if count ≤ ticks then ⟨0, true⟩ else ⟨count - ticks, false⟩

/-- Sawtooth and Triangle with effective limit `e` (R79, R80), at most one event however many wraps
(R82); `e == 0` is the special case of R81. -/
def advanceUp (e count ticks : Nat) : Advanced :=
  if e = 0 then ⟨0, decide (ticks ≠ 0)⟩
  else if e < count + ticks then ⟨(count + ticks) % (e + 1), true⟩
  else ⟨count + ticks, false⟩

/-- Apply `ticks` to `count` by mode (R73). -/
def advance (mode : Mode) (limit count ticks : Nat) : Advanced :=
  match mode with
  | .countdown => advanceDown count ticks
  | .sawtooth => advanceUp (effectiveLimit .sawtooth limit) count ticks
  | .triangle => advanceUp (effectiveLimit .triangle limit) count ticks

/-- The end of a running, configured `ACTUALIZE` (R73): store the time, the carried cycles `acc` and the
advanced count and return event and ticks, or raise `Overflow` when the count does not fit (R84). -/
def storeAdvance (now : Word) (acc ticks : Nat) (adv : Advanced) (s : State) : Outcome :=
  if MAX64 < adv.count then raise .overflow s
  else complete ⟨.ok, adv.event, BitVec.ofNat 128 ticks, 0⟩
    { s with last := now, acc := BitVec.ofNat 64 acc, count := BitVec.ofNat 64 adv.count }

/-- The visible value (10_state.md R31): `count`, folded in Triangle mode. -/
def visible (count limit : Word) (mode : Mode) : Word :=
  match mode with
  | .triangle =>
    if count.toNat ≤ limit.toNat then count
    else if count.toNat ≤ 2 * limit.toNat then BitVec.ofNat 64 (2 * limit.toNat - count.toNat)
    else 0
  | .sawtooth => count
  | .countdown => count

/-! ## The deadline (41_scheduler.md R90 to R96) -/

/-- `NextPeriodTicks(mode, limit)` (R6, R90, D11). -/
def nextPeriodTicks : Mode → Nat → Nat
  | .countdown, limit => limit
  | .sawtooth, limit => limit + 1
  | .triangle, limit => 2 * limit + 1

/-- `remaining`, clamped at 0 (R93): `Nat` subtraction is the clamp. -/
def remainingTicks (mode : Mode) (limit count : Nat) : Nat :=
  match mode with
  | .countdown => count
  | .sawtooth => effectiveLimit .sawtooth limit - count
  | .triangle => effectiveLimit .triangle limit - count

/-- The ticks a deadline is armed ahead: `remaining`, or the next period when that is 0 (R93). -/
def ticksToArm (mode : Mode) (limit count : Nat) : Nat :=
  if remainingTicks mode limit count = 0 then nextPeriodTicks mode limit
  else remainingTicks mode limit count

/-- The host cycles to wait for `ticks` ticks (R94): never less than 1, also when `acc` already holds
enough (`Nat` subtraction stops at 0, and the clamp gives 1). -/
def waitCycles (ticks num den acc : Nat) : Nat := max 1 (ceilDiv (ticks * den) num - acc)

/-- Arm at host time `t`, replacing any deadline (R95, R96), or raise `Overflow` when `t` is no
timestamp (R103). -/
def armAt (t : Nat) (s : State) : Outcome :=
  if MAX64 < t then raise .overflow s
  else completeOk { s with armed := true, target := BitVec.ofNat 64 t }

/-! ## Issue (20_memory.md R44, R45) -/

/-- The bundle to execute next and the state without it; none when nothing has been issued. -/
def fetch (s : State) : Option (Bundle × State) :=
  match s.pending with
  | [] => none
  | b :: rest => some (b, { s with pending := rest })

/-- A step with nothing issued: the block does nothing of itself (R45; DESIGN CHOICE, log 2). -/
def idle (s : State) : Outcome := .next s

/-- A command byte that matches no row (30_encoding.md R57, 60_exceptions.md R148). -/
def rejectCommand (s : State) : Outcome := raise .illegalCommand s

end Sys2Proof.Machine
end

