-- ==== Sys2Proof/Machine/Actualizer.lean ====
section
/-! DEFINITION. `ACTUALIZE` (40_actualizer.md R73). -/

namespace Sys2Proof.Machine

/-- `ACTUALIZE now, num/den` (R73, with R74 to R85 line by line). -/
def execActualize (now num den : Word) (s : State) : Outcome :=
  if now < s.last then raise .timeRegression s
  else if s.running = false then completeOk { s with last := now }
  else if MAX64 < cyclesAt now s then raise .overflow s
  else if unconfigured num den = true then
    completeOk (State.log { s with last := now, acc := BitVec.ofNat 64 (cyclesAt now s) } stallLogged)
  else
    storeAdvance now
      (convert s.remRound (cyclesAt now s) num.toNat den.toNat).acc
      (convert s.remRound (cyclesAt now s) num.toNat den.toNat).ticks
      (advance s.mode s.limit.toNat s.count.toNat
        (convert s.remRound (cyclesAt now s) num.toNat den.toNat).ticks) s

end Sys2Proof.Machine
end

