-- ==== Sys2Proof/Machine/Control.lean ====
section
/-! DEFINITION. Run control, configuration and read-out (42_control.md): `START`, `STOP`, `RESET`,
`SETLIMIT`, `SETMODE`, `LOAD`, `READ`, `RDF`. -/

namespace Sys2Proof.Machine

/-- `START now` (R105): no effect on a running counter, not even on `last` (D13). -/
def execStart (now : Word) (s : State) : Outcome :=
  if now < s.last then raise .timeRegression s
  else if s.running = false then completeOk { s with running := true, last := now }
  else completeOk s

/-- `STOP` (R106). -/
def execStop (s : State) : Outcome := completeOk { s with running := false, armed := false }

/-- `RESET now` (R107): exactly the three effects the source lists (D14). -/
def execReset (now : Word) (s : State) : Outcome :=
  if now < s.last then raise .timeRegression s
  else completeOk { s with count := 0, acc := 0, last := now }

/-- `SETLIMIT value` (R108). -/
def execSetlimit (wdata : Word) (s : State) : Outcome := completeOk { s with limit := wdata }

/-- `SETMODE tag` (R109). -/
def execSetmode (tag : BitVec 2) (s : State) : Outcome :=
  match modeOfTag tag with
  | some m => completeOk { s with mode := m }
  | none => raise .illegalCommand s

/-- `LOAD value` (R110). -/
def execLoad (wdata : Word) (s : State) : Outcome := completeOk { s with count := wdata }

/-- `READ` (R111): the visible value as of `last`. -/
def execRead (s : State) : Outcome := complete ⟨.ok, false, 0, visible s.count s.limit s.mode⟩ s

/-- `RDF sel` (R112): one raw field. -/
def execRdf (sel : BitVec 4) (s : State) : Outcome :=
  match readField s sel with
  | some v => complete ⟨.ok, false, 0, v⟩ s
  | none => raise .illegalCommand s

end Sys2Proof.Machine
end

