-- ==== Sys2Proof/Machine/Scheduler.lean ====
section
/-! DEFINITION. The event-deadline scheduler (41_scheduler.md): `REARM`, `CANCEL`, `EXPIRE`. -/

namespace Sys2Proof.Machine

/-- `REARM now, num/den` (R90, with R91 to R96 and R103). -/
def execRearm (now num den : Word) (s : State) : Outcome :=
  if now < s.last then raise .timeRegression s
  else if s.running = false then completeOk { s with armed := false }
  else if unconfigured num den = true then completeOk (State.log { s with armed := false } stallLogged)
  else
    armAt (now.toNat + waitCycles (ticksToArm s.mode s.limit.toNat s.count.toNat)
      num.toNat den.toNat s.acc.toNat) s

/-- `CANCEL` (R97). -/
def execCancel (s : State) : Outcome := completeOk { s with armed := false }

/-- `EXPIRE now` (R98): the host's notice that the armed deadline has come due, at any lateness. -/
def execExpire (now : Word) (s : State) : Outcome :=
  if now < s.last then raise .timeRegression s
  else if s.armed = false ∨ now < s.target then raise .spuriousExpire s
  else completeOk { s with armed := false }

end Sys2Proof.Machine
end

