-- ==== Sys2Proof/Machine/Dispatch.lean ====
section
/-! DEFINITION. One arm for each operation of spec/opcode_table.json. -/

namespace Sys2Proof.Machine

def exec (i : Instr) (s : State) : Host.Outcome State Fault Refusal :=
  match i with
  | .actualize now num den => Sys2Proof.Machine.execActualize now num den s
  | .rearm now num den => Sys2Proof.Machine.execRearm now num den s
  | .expire now => Sys2Proof.Machine.execExpire now s
  | .cancel => Sys2Proof.Machine.execCancel s
  | .start now => Sys2Proof.Machine.execStart now s
  | .stop => Sys2Proof.Machine.execStop s
  | .reset now => Sys2Proof.Machine.execReset now s
  | .setlimit wdata => Sys2Proof.Machine.execSetlimit wdata s
  | .setmode tag => Sys2Proof.Machine.execSetmode tag s
  | .load wdata => Sys2Proof.Machine.execLoad wdata s
  | .read => Sys2Proof.Machine.execRead s
  | .rdf sel => Sys2Proof.Machine.execRdf sel s

end Sys2Proof.Machine
end

