-- ==== Sys2Proof/Machine/Step.lean ====
section
/-! DEFINITION. One step: execute the bundle issued first (20_memory.md R44, R45). -/

namespace Sys2Proof.Machine

/-- Take the oldest issued bundle, decode it and execute it; an illegal byte raises `IllegalCommand`
(R57), and with nothing issued nothing happens (log 2). -/
def step (s : State) : Host.Outcome State Fault Refusal :=
  match fetch s with
  | none => idle s
  | some (b, s') =>
    match Sys2Proof.decode b with
    | .ok i => exec i s'
    | .error _ => rejectCommand s'

/-- `s` with the opcode-table row `w` of `nbits` bits issued before anything else, its operand ports 0:
the very next step executes it (log 1, log 10). -/
def State.withFetchWord (s : State) (nbits w : Nat) : State :=
  { s with pending := Sys2Proof.tableBundle (w % 2 ^ nbits) :: s.pending }

end Sys2Proof.Machine
end

