-- ==== Sys2Proof/Machine/Board.lean ====
section
/-! DEFINITION. Any number of instances (00_scope.md R2, 60_exceptions.md R159): each has its own fields
and they share none. Any of them may step next (20_memory.md R46; log 11). -/

namespace Sys2Proof.Machine

/-- The instances of a board, in no order that matters (R159). -/
structure Board where
  instances : List State
deriving DecidableEq, Repr

/-- Replace instance `k` (nothing happens when there is no such instance). -/
def Board.put (b : Board) (k : Nat) (s : State) : Board := ⟨b.instances.set k s⟩

/-- Instance `k` takes one step; no other instance is touched. -/
def Board.stepAt (b : Board) (k : Nat) : Board :=
  match b.instances[k]? with
  | none => b
  | some s =>
    match step s with
    | .next t => b.put k t
    | .fault _ => b
    | .refused _ => b

end Sys2Proof.Machine
end

