-- ==== Sys2Proof/Machine/HostQueue.lean ====
section
/-! DEFINITION. The correspondence with the external Host Deadline Scheduler (41_scheduler.md R102): what
a change of (`armed`, `target`) stands for in the host's queue. The queue itself is out of scope (R4). -/

namespace Sys2Proof.Machine

/-- A call on the host's queue, or the host's own removal of a due entry. -/
inductive HostCall where
  /-- `Arm(target, callback) -> handle`. -/
  | arm (target : Word)
  /-- `Cancel(handle)`. -/
  | cancel
  /-- The queue has popped the entry and runs the callback. -/
  | popped
deriving DecidableEq, Repr

/-- The host's entry for this instance: at `target`, exactly when `armed` (R28, R102). -/
def hostEntry (s : State) : Option Word := if s.armed then some s.target else none

/-- The calls that operation `i`, taking the block from `s` to `t`, stands for (R102). A `REARM` that
completes on an armed counter replaces the deadline (R96), also when the time is the same (log 16). -/
def hostCalls (i : Instr) (s t : State) : List HostCall :=
  match s.armed, t.armed with
  | false, false => []
  | false, true => [.arm t.target]
  | true, true =>
    match i with
    | .rearm _ _ _ => if t.out.err = .ok then [.cancel, .arm t.target] else []
    | _ => []
  | true, false =>
    match i with
    | .expire _ => [.popped]
    | _ => [.cancel]

/-- The host's entry after a call. One instance has at most one (R102), so `arm` is given only when
there is none. -/
def applyHostCall (entry : Option Word) : HostCall → Option (Option Word)
  | .arm t => if entry = none then some (some t) else none
  | .cancel => if entry = none then none else some none
  | .popped => if entry = none then none else some none

/-- The host's entry after a list of calls; none when a call would leak or miss an entry. -/
def applyHostCalls : List HostCall → Option Word → Option (Option Word)
  | [], entry => some entry
  | c :: cs, entry =>
    match applyHostCall entry c with
    | some entry' => applyHostCalls cs entry'
    | none => none

/-- The host may deliver the expiry: the entry exists and its time has come (R98, R102). -/
def hostMayExpire (now : Word) (s : State) : Bool := s.armed && decide (s.target ≤ now)

end Sys2Proof.Machine
end

