-- ==== Sys2Proof/Machine/Protocol.lean ====
section
/-! DEFINITION. The issuers' side: the agents of 60_exceptions.md R156 and the pseudo-operations of
43_adapter_protocol.md. The block itself executes any order of primitives (R136); this file says which
sequences keep time. -/

namespace Sys2Proof.Machine

/-- The agents that issue operations to one instance (R156). -/
inductive Agent where
  | adapter
  | hostScheduler
  | observer
deriving DecidableEq, Repr

/-- The primitives an agent issues (R156). The host's are those of `DEADLINE_CALLBACK` (R133) outside
its reaction window. The block refuses none on these grounds (R155). -/
def Agent.issues (a : Agent) (i : Instr) : Bool :=
  match a, i with
  | .adapter, .expire _ => false
  | .adapter, _ => true
  | .hostScheduler, .expire _ => true
  | .hostScheduler, .actualize _ _ _ => true
  | .hostScheduler, .rearm _ _ _ => true
  | .hostScheduler, _ => false
  | .observer, .rdf _ => true
  | .observer, _ => false

/-- The writes of `CONFIG_WRITE` (R127). -/
inductive ConfigWrite where
  | setLimit (v : Word)
  | setMode (m : Mode)
  | load (v : Word)
deriving DecidableEq, Repr

/-- The operation a write issues. -/
def ConfigWrite.instr : ConfigWrite → Instr
  | .setLimit v => .setlimit v
  | .setMode m => .setmode (modeTag m)
  | .load v => .load v

/-- The optional writes of `DEVICE_RESET` (R130). -/
inductive ResetWrite where
  | config (w : ConfigWrite)
  | stop
deriving DecidableEq, Repr

/-- The operation such a write issues. -/
def ResetWrite.instr : ResetWrite → Instr
  | .config w => w.instr
  | .stop => .stop

/-- What the adapter may issue in a reaction window (R134); none of them is `ACTUALIZE`. -/
inductive Reaction where
  | config (w : ConfigWrite)
  | stop
  | reset
  | start
deriving DecidableEq, Repr

/-- The operation a reaction issues; `RESET` and `START` carry the sequence's `now` (R134, R135). -/
def Reaction.instr (now : Word) : Reaction → Instr
  | .config w => w.instr
  | .stop => .stop
  | .reset => .reset now
  | .start => .start now

/-- The pseudo-operations (30_encoding.md R63). -/
inductive PseudoOp where
  /-- R126. -/
  | timedRead (now : Word) (r : Ratio)
  /-- R127. -/
  | configWrite (now : Word) (rOld rNew : Ratio) (writes : List ConfigWrite)
  /-- R128. -/
  | enable (now : Word) (r : Ratio)
  /-- R129. -/
  | disable (now : Word) (r : Ratio)
  /-- R130. -/
  | deviceReset (now : Word) (r : Ratio) (writes : List ResetWrite)
  /-- R131. -/
  | periodWriteReset (now : Word) (r : Ratio) (value : Word)
  /-- R132; with `discard` the adapter inserts `RESET now` before the `REARM`. -/
  | reclock (now : Word) (rOld rNew : Ratio) (discard : Bool)
  /-- R133, issued by the host. -/
  | deadlineCallback (now : Word) (r : Ratio)
deriving DecidableEq, Repr

/-- The one `now` of a sequence (R135). -/
def PseudoOp.now : PseudoOp → Word
  | .timedRead now _ => now
  | .configWrite now _ _ _ => now
  | .enable now _ => now
  | .disable now _ => now
  | .deviceReset now _ _ => now
  | .periodWriteReset now _ _ => now
  | .reclock now _ _ _ => now
  | .deadlineCallback now _ => now

/-- The agent that issues a pseudo-operation (R156): the adapter the seven it lists, the Host Deadline
Scheduler `DEADLINE_CALLBACK` ("not by the adapter", R133). The observer issues none. -/
def PseudoOp.issuer : PseudoOp → Agent
  | .timedRead _ _ => .adapter
  | .configWrite _ _ _ _ => .adapter
  | .enable _ _ => .adapter
  | .disable _ _ => .adapter
  | .deviceReset _ _ _ => .adapter
  | .periodWriteReset _ _ _ => .adapter
  | .reclock _ _ _ _ => .adapter
  | .deadlineCallback _ _ => .hostScheduler

/-- Agent `a` issues the pseudo-operation `p` (R156). -/
def Agent.issuesPseudo (a : Agent) (p : PseudoOp) : Bool := p.issuer == a

/-- The agent in which a primitive of a pseudo-operation runs (R156): in a callback the host consumes
the deadline itself, and the `ACTUALIZE`, the reaction and the `REARM` "run in the adapter's callback". -/
def PseudoOp.runsIn (p : PseudoOp) (i : Instr) : Agent :=
  match p, i with
  | .deadlineCallback _ _, .expire _ => .hostScheduler
  | .deadlineCallback _ _, _ => .adapter
  | p, _ => p.issuer

/-- One stage of an expansion. -/
inductive Stage where
  /-- Issue a primitive. -/
  | issue (i : Instr)
  /-- The reaction window after an `ACTUALIZE` (R134). -/
  | window
  /-- Issue the primitive only if a window changed the state (R126). -/
  | issueIfReacted (i : Instr)
deriving DecidableEq, Repr

/-- The primitive a stage of the expansion itself issues; a window issues the adapter's reaction. -/
def Stage.instr? : Stage → Option Instr
  | .issue i => some i
  | .window => none
  | .issueIfReacted i => some i

/-- `ACTUALIZE now, r` as a stage. -/
def stageActualize (now : Word) (r : Ratio) : Stage := .issue (.actualize now r.num r.den)

/-- `REARM now, r` as a stage. -/
def stageRearm (now : Word) (r : Ratio) : Stage := .issue (.rearm now r.num r.den)

/-- The expansions (R126 to R133). `ENABLE` has a window too, by R134 and R183 (DEDUCED, log 14); the
`REARM` after a reaction within `TIMED_READ` follows the `READ` (DEDUCED, log 17). -/
def PseudoOp.expand : PseudoOp → List Stage
  | .timedRead now r =>
    [stageActualize now r, .window, .issue .read, .issueIfReacted (.rearm now r.num r.den)]
  | .configWrite now rOld rNew writes =>
    [stageActualize now rOld, .window] ++ writes.map (fun w => Stage.issue w.instr) ++ [stageRearm now rNew]
  | .enable now r => [stageActualize now r, .window, .issue (.start now), stageRearm now r]
  | .disable now r => [stageActualize now r, .window, .issue .stop]
  | .deviceReset now r writes =>
    [stageActualize now r, .window, .issue (.reset now)] ++ writes.map (fun w => Stage.issue w.instr) ++
      [stageRearm now r]
  | .periodWriteReset now r value =>
    [stageActualize now r, .window, .issue (.setlimit value), .issue (.reset now), stageRearm now r]
  | .reclock now rOld rNew discard =>
    [stageActualize now rOld, .window] ++ (if discard then [.issue (.reset now)] else []) ++
      [stageRearm now rNew]
  | .deadlineCallback now r =>
    [.issue (.expire now), stageActualize now r, .window, stageRearm now r]

/-- A sequence in progress: the state, the results of each primitive so far, whether a reaction window
changed the state, and whether a raise has ended the sequence (R133, R184). -/
structure Run where
  state : State
  results : List Results
  reacted : Bool
  ended : Bool
deriving DecidableEq, Repr

/-- A sequence about to begin in `s`. -/
def Run.begin (s : State) : Run := ⟨s, [], false, false⟩

/-- Issue one primitive. After an error nothing more of the sequence is issued (R133, R184; DEDUCED, log 15). -/
def Run.issue (r : Run) (i : Instr) : Run :=
  if r.ended then r
  else match exec i r.state with
    | .next t => { r with state := t, results := r.results ++ [t.out], ended := t.out.err != .ok }
    | .fault _ => { r with ended := true }
    | .refused _ => { r with ended := true }

/-- The block's own fields are the same: everything but the result ports (DEDUCED, log 17). -/
def sameFields (s t : State) : Bool := decide ({ s with out := t.out } = t)

/-- The reaction window: the adapter reacts only when the `ACTUALIZE` before it returned an event. -/
def Run.window (r : Run) (reaction : List Instr) : Run :=
  if r.ended = false ∧ r.state.out.event = true then
    let r' := reaction.foldl Run.issue r
    { r' with reacted := r.reacted || !sameFields r.state r'.state }
  else r

/-- Run one stage. -/
def Run.stage (reaction : List Instr) (r : Run) : Stage → Run
  | .issue i => r.issue i
  | .window => r.window reaction
  | .issueIfReacted i => if r.reacted then r.issue i else r

/-- Run a pseudo-operation with the adapter's reaction to an event. -/
def PseudoOp.run (p : PseudoOp) (reaction : List Reaction) (s : State) : Run :=
  p.expand.foldl (Run.stage (reaction.map (Reaction.instr p.now))) (Run.begin s)

/-- Agent `a` runs a pseudo-operation: none when R156 does not have `a` issue it. -/
def Agent.runPseudo (a : Agent) (p : PseudoOp) (reaction : List Reaction) (s : State) : Option Run :=
  if a.issuesPseudo p then some (p.run reaction s) else none

/-- The adapter's start-up sequence (70_reset_and_hazards.md R169): mode, limit, an optional load, `ENABLE`. -/
def startUp (m : Mode) (p : Word) (v : Option Word) (now : Word) (r : Ratio) : List Instr :=
  [.setmode (modeTag m), .setlimit p] ++ (match v with | some w => [.load w] | none => []) ++
    [.actualize now r.num r.den, .start now, .rearm now r.num r.den]

/-- Run a plain list of primitives. -/
def runInstrs (is : List Instr) (s : State) : Run := is.foldl Run.issue (Run.begin s)

end Sys2Proof.Machine
end

