-- ==== Sys2Proof/Safety.lean ====
section
/-! DEFINITION. The terms of the claims: invariants, safe runs and tick totals. -/

namespace Sys2Proof

open Machine

/-- Nothing raised so far: `status[3:0] == 0` (10_state.md R22). -/
abbrev FaultFree (s : State) : Prop := faultBits s.status = 0

/-- A deadline is armed only while the counter runs (42_control.md R106, 41_scheduler.md R92). -/
abbrev ArmedOnlyRunning (s : State) : Prop := s.armed = true → s.running = true

/-- The span relation of 10_state.md R23. -/
abbrev WithinSpan (s : State) : Prop := s.count.toNat ≤ effectiveLimit s.mode s.limit.toNat

/-- The remainder relation of 10_state.md R24, with respect to a ratio. -/
abbrev RemainderBelowTick (num den : Word) (s : State) : Prop := s.acc.toNat * num.toNat < den.toNat

/-- A configured ratio (10_state.md R11). -/
abbrev Configured (num den : Word) : Prop := num ≠ 0 ∧ den ≠ 0

/-- The exact case of 40_actualizer.md R72 item 4. -/
abbrev ExactRatio (num den : Word) : Prop := num.toNat ∣ den.toNat ∨ den.toNat ∣ num.toNat

/-- The raised state of 60_exceptions.md R146: one sticky bit, and the results. -/
def raised (s : State) (bit : Status) (e : Err) : State :=
  { s with status := s.status ||| bit, out := ⟨e, false, 0, 0⟩ }

/-- `ACTUALIZE` at each time of a list, with one ratio: the total of the `ticks` results and the last
state, or none when one of them raised. -/
def ticksAlong (num den : Word) : List Word → State → Option (Nat × State)
  | [], s => some (0, s)
  | now :: rest, s =>
    match exec (.actualize now num den) s with
    | .next t =>
      if t.out.err = .ok then
        (ticksAlong num den rest t).map (fun p => (t.out.ticks.toNat + p.1, p.2))
      else none
    | .fault _ => none
    | .refused _ => none

end Sys2Proof
end

