-- ==== Sys2Proof/WellFormed.lean ====
section
/-! DEFINITION. Which operations name a mode and a field that exist. The two checks are those of
30_encoding.md R57: the operation is decoded, and its own rule refuses an ill-formed one. -/

namespace Sys2Proof

/-- R54: `0b11` is no mode tag. -/
def wellFormedTag (tag : BitVec 2) : Bool := tag != 3

/-- R12, R55: selectors 9 to 15 name no field. -/
def wellFormedSel (sel : BitVec 4) : Bool := sel.toNat ≤ 8

/-- An operation whose operands all have a meaning. -/
def Instr.wellFormed : Instr → Bool
  | .actualize _ _ _ => true
  | .rearm _ _ _ => true
  | .expire _ => true
  | .cancel => true
  | .start _ => true
  | .stop => true
  | .reset _ => true
  | .setlimit _ => true
  | .setmode tag => wellFormedTag tag
  | .load _ => true
  | .read => true
  | .rdf sel => wellFormedSel sel

end Sys2Proof
end

