-- ==== Sys2Proof/Certificates/Slice0/Obligations.lean ====
section
/-! DEFINITION. The statements for the provers. Each docstring names the rule of spec/ it formalises. -/

open Sys2Proof Sys2Proof.Machine

/-! ## Encoding and issue -/

/-- R53, R54, R55: a command byte of each row of the opcode map, written out as `op` and `sel`, is the
operation of that row, whatever the ports hold. -/
def Obligations.SpecCommandBytesDecode : Prop :=
  ∀ now num den wdata : Word,
    decode ⟨0b00010000, now, num, den, wdata⟩ = .ok (.actualize now num den) ∧
    decode ⟨0b00100000, now, num, den, wdata⟩ = .ok (.rearm now num den) ∧
    decode ⟨0b00110000, now, num, den, wdata⟩ = .ok (.expire now) ∧
    decode ⟨0b01000000, now, num, den, wdata⟩ = .ok .cancel ∧
    decode ⟨0b01010000, now, num, den, wdata⟩ = .ok (.start now) ∧
    decode ⟨0b01100000, now, num, den, wdata⟩ = .ok .stop ∧
    decode ⟨0b01110000, now, num, den, wdata⟩ = .ok (.reset now) ∧
    decode ⟨0b10000000, now, num, den, wdata⟩ = .ok (.setlimit wdata) ∧
    decode ⟨0b10010010, now, num, den, wdata⟩ = .ok (.setmode 0b10) ∧
    decode ⟨0b10100000, now, num, den, wdata⟩ = .ok (.load wdata) ∧
    decode ⟨0b10110000, now, num, den, wdata⟩ = .ok .read ∧
    decode ⟨0b11000111, now, num, den, wdata⟩ = .ok (.rdf 0b0111)

/-- R51 to R56, R62's operand forms: decoding the bundle that encodes an operation gives the operation
back, for every operation and every operand (tag 3 and the reserved selectors included, which match
their rows, R58). -/
def Obligations.DecodeOfEncode : Prop := ∀ i : Instr, decode (encode i) = .ok i

/-- R52: the decoder reads the command byte and the ports of the operation's format, all of them and no
others. A bundle that decodes to `i` agrees with `encode i` on them, and every bundle that agrees with
it on them decodes to `i` too. -/
def Obligations.DecodeReadsListedPortsOnly : Prop :=
  ∀ (b c : Bundle) (i : Instr), decode b = .ok i →
    i.format.SameListed b (encode i) ∧ (i.format.SameListed b c → decode c = .ok i)

/-- R57, R148: a step raises `IllegalCommand` exactly for a byte that matches no row, for `SETMODE` with
tag 3 and for `RDF` with a selector above 8, and then no field of the spec but `status[2]` changes. That
the bundle leaves the list `pending`, and that the results stay in `out`, is the model's own choice
(log 1, log 3). -/
def Obligations.IllegalBytesRaiseIllegalCommand : Prop :=
  ∀ (s : State) (b : Bundle) (rest : List Bundle), s.pending = b :: rest →
    let op := b.cmd.toNat / 16
    let sel := b.cmd.toNat % 16
    let illegal : Prop := op = 0 ∨ 13 ≤ op ∨ (op ≠ 9 ∧ op ≠ 12 ∧ sel ≠ 0) ∨ (op = 9 ∧ 3 ≤ sel) ∨
      (op = 12 ∧ 9 ≤ sel)
    ∃ t, step s = .next t ∧ (t.out.err = .illegalCommand ↔ illegal) ∧
      (illegal → t = raised { s with pending := rest } 0b00100 .illegalCommand)

/-- R58: 30 of the 256 bytes match a row, and a step on 234 of them raises `IllegalCommand`. How a byte is
issued for it, with ports at 0, is the model's own choice (log 1, log 10). -/
def Obligations.CommandBytesCounted : Prop :=
  ((List.range 256).filter (fun w => (decodeTableWord 8 w).isSome)).length = 30 ∧
  ((List.range 256).filter (fun w =>
    match step (State.reset.withFetchWord 8 w) with
    | .next t => t.out.err == .illegalCommand
    | .fault _ => false
    | .refused _ => false)).length = 234

/-- R44, R45: a step takes the bundle issued first and is the operation it decodes to, on the state
without that bundle. With nothing issued a step changes nothing (the model's own choice, log 2). -/
def Obligations.StepRunsDecodedOperation : Prop :=
  (∀ (s : State) (b : Bundle) (rest : List Bundle) (i : Instr),
    s.pending = b :: rest → decode b = .ok i → step s = exec i { s with pending := rest }) ∧
  ∀ s : State, s.pending = [] → step s = .next s

/-- R57, R148: an operation that has been decoded raises `IllegalCommand` exactly when it is ill-formed:
it names no mode or no field. -/
def Obligations.IllFormedOperationsAreIllegal : Prop :=
  ∀ (i : Instr) (s t : State), exec i s = .next t →
    (t.out.err = .illegalCommand ↔ i.wellFormed = false)

/-! ## ACTUALIZE -/

/-- R75: on a stopped counter only `last` moves, whatever the ratio. -/
def Obligations.ActualizeStoppedMovesLastOnly : Prop :=
  ∀ (s : State) (now num den : Word), s.last ≤ now → s.running = false →
    exec (.actualize now num den) s = .next { s with last := now, out := ⟨.ok, false, 0, 0⟩ }

/-- R77: an unconfigured ratio on a running counter keeps the elapsed cycles and sets `status[4]`. -/
def Obligations.ActualizeUnconfiguredKeepsCycles : Prop :=
  ∀ (s : State) (now num den : Word), s.last ≤ now → s.running = true → num = 0 ∨ den = 0 →
    s.acc.toNat + (now.toNat - s.last.toNat) ≤ MAX64 →
    exec (.actualize now num den) s = .next { s with
      last := now
      acc := BitVec.ofNat 64 (s.acc.toNat + (now.toNat - s.last.toNat))
      status := s.status ||| 0b10000
      out := ⟨.ok, false, 0, 0⟩ }

/-- R73, R78: a running, configured Countdown counter. `T` is the ticks of R71; `limit` plays no part,
and at `count == 0` the event is reported even for `T == 0`. -/
def Obligations.ActualizeCountdownCountsDown : Prop :=
  ∀ (s : State) (now num den : Word), s.last ≤ now → s.running = true → Configured num den →
    s.mode = .countdown → s.acc.toNat + (now.toNat - s.last.toNat) ≤ MAX64 →
    let a := s.acc.toNat + (now.toNat - s.last.toNat)
    let T := a * num.toNat / den.toNat
    exec (.actualize now num den) s = .next { s with
      last := now
      acc := BitVec.ofNat 64 (convert s.remRound a num.toNat den.toNat).acc
      count := if s.count.toNat ≤ T then 0 else BitVec.ofNat 64 (s.count.toNat - T)
      out := ⟨.ok, decide (s.count.toNat ≤ T), BitVec.ofNat 128 T, 0⟩ }

/-- R73, R79: a running, configured Sawtooth counter with `limit >= 1` wraps modulo `limit + 1`; reaching
`limit` is no boundary. -/
def Obligations.ActualizeSawtoothWraps : Prop :=
  ∀ (s : State) (now num den : Word), s.last ≤ now → s.running = true → Configured num den →
    s.mode = .sawtooth → s.limit ≠ 0 → s.acc.toNat + (now.toNat - s.last.toNat) ≤ MAX64 →
    let a := s.acc.toNat + (now.toNat - s.last.toNat)
    let T := a * num.toNat / den.toNat
    let nc := s.count.toNat + T
    exec (.actualize now num den) s = .next { s with
      last := now
      acc := BitVec.ofNat 64 (convert s.remRound a num.toNat den.toNat).acc
      count := BitVec.ofNat 64 (if s.limit.toNat < nc then nc % (s.limit.toNat + 1) else nc)
      out := ⟨.ok, decide (s.limit.toNat < nc), BitVec.ofNat 128 T, 0⟩ }

/-- R73, R80: a running, configured Triangle counter with `limit >= 1` wraps modulo `2*limit + 1`, where
the new count fits. -/
def Obligations.ActualizeTriangleWraps : Prop :=
  ∀ (s : State) (now num den : Word), s.last ≤ now → s.running = true → Configured num den →
    s.mode = .triangle → s.limit ≠ 0 → s.acc.toNat + (now.toNat - s.last.toNat) ≤ MAX64 →
    let a := s.acc.toNat + (now.toNat - s.last.toNat)
    let T := a * num.toNat / den.toNat
    let nc := s.count.toNat + T
    let c := if 2 * s.limit.toNat < nc then nc % (2 * s.limit.toNat + 1) else nc
    c ≤ MAX64 →
    exec (.actualize now num den) s = .next { s with
      last := now
      acc := BitVec.ofNat 64 (convert s.remRound a num.toNat den.toNat).acc
      count := BitVec.ofNat 64 c
      out := ⟨.ok, decide (2 * s.limit.toNat < nc), BitVec.ofNat 128 T, 0⟩ }

/-- R81: in Sawtooth and Triangle mode with `limit == 0` the event is `T != 0` and the count becomes 0,
also from a count above 0. -/
def Obligations.ActualizeZeroLimitFiresOnTicks : Prop :=
  ∀ (s : State) (now num den : Word), s.last ≤ now → s.running = true → Configured num den →
    s.mode ≠ .countdown → s.limit = 0 → s.acc.toNat + (now.toNat - s.last.toNat) ≤ MAX64 →
    let a := s.acc.toNat + (now.toNat - s.last.toNat)
    let T := a * num.toNat / den.toNat
    exec (.actualize now num den) s = .next { s with
      last := now
      acc := BitVec.ofNat 64 (convert s.remRound a num.toNat den.toNat).acc
      count := 0
      out := ⟨.ok, decide (T ≠ 0), BitVec.ofNat 128 T, 0⟩ }

/-- R71, R7: what `Convert` computes. The ticks are the floor; the cycles `c` taken from `a` are the
ceiling of `T*den/num` under Ceil and its floor under Floor. -/
def Obligations.ConvertRoundsAsParameterSays : Prop :=
  ∀ (r : Rounding) (a num den : Nat), 0 < num → 0 < den →
    let T := (convert r a num den).ticks
    T * den ≤ a * num ∧ a * num < (T + 1) * den ∧
    ∃ c, (convert r a num den).acc + c = a ∧
      (r = .ceil → T * den ≤ c * num ∧ c * num < T * den + num) ∧
      (r = .floor → c * num ≤ T * den ∧ T * den < (c + 1) * num)

/-- R24, R72 item 2: under Ceil every running, configured `ACTUALIZE` that completes leaves less than one
tick in `acc`. -/
def Obligations.CeilKeepsRemainderBelowTick : Prop :=
  ∀ (s t : State) (now num den : Word), s.remRound = .ceil → s.running = true → Configured num den →
    exec (.actualize now num den) s = .next t → t.out.err = .ok → RemainderBelowTick num den t

/-- R24, R72 item 3: under Floor it need not. -/
def Obligations.FloorCanLeaveWholeTick : Prop :=
  ∃ (s t : State) (now num den : Word), s.remRound = .floor ∧ s.running = true ∧ Configured num den ∧
    exec (.actualize now num den) s = .next t ∧ t.out.err = .ok ∧ ¬ RemainderBelowTick num den t

/-- R48, R72 item 2: under Ceil a second `ACTUALIZE` at the same `now` with the same ratio yields no tick
and no event and changes no field, unless a Countdown counter sits at 0. -/
def Obligations.RepeatedActualizeIsQuiet : Prop :=
  ∀ (s t : State) (now num den : Word), s.remRound = .ceil → s.running = true → Configured num den →
    exec (.actualize now num den) s = .next t → t.out.err = .ok → ¬ (t.mode = .countdown ∧ t.count = 0) →
    exec (.actualize now num den) t = .next { t with out := ⟨.ok, false, 0, 0⟩ }

/-- R23, R85: `ACTUALIZE` preserves the span relation; in Sawtooth and Triangle mode a running,
configured one that completes restores it, and reports an event when it was broken and the effective
limit is not 0. -/
def Obligations.ActualizeKeepsAndRestoresSpan : Prop :=
  ∀ (s t : State) (now num den : Word), exec (.actualize now num den) s = .next t →
    (WithinSpan s → WithinSpan t) ∧
    (s.mode ≠ .countdown → s.running = true → Configured num den → t.out.err = .ok →
      WithinSpan t ∧ (¬ WithinSpan s → s.limit ≠ 0 → t.out.event = true))

/-- R11: a common factor of the ratio changes nothing. -/
def Obligations.RatioNeedNotBeReduced : Prop :=
  ∀ (s : State) (k : Nat) (now num den num' den' : Word), 0 < k →
    num'.toNat = k * num.toNat → den'.toNat = k * den.toNat →
    exec (.actualize now num' den') s = exec (.actualize now num den) s ∧
    exec (.rearm now num' den') s = exec (.rearm now num den) s

/-- R72 items 4 and 5, R86: with an exact ratio, under either rounding, the tick total of any chopping
of `N` cycles from `acc == 0` is exactly `floor(N*num/den)`. -/
def Obligations.ExactRatioNeverDrifts : Prop :=
  ∀ (s t : State) (num den : Word) (times : List Word) (n : Nat),
    s.running = true → s.acc = 0 → Configured num den → ExactRatio num den →
    ticksAlong num den times s = some (n, t) →
    n = (t.last.toNat - s.last.toNat) * num.toNat / den.toNat

/-- R72 item 5, R86: under Ceil no chopping creates a tick: the total never exceeds
`floor(N*num/den)`, and what is not delivered or carried was lost. -/
def Obligations.CeilNeverCreatesTicks : Prop :=
  ∀ (s t : State) (num den : Word) (times : List Word) (n : Nat),
    s.remRound = .ceil → s.running = true → s.acc = 0 → Configured num den →
    ticksAlong num den times s = some (n, t) →
    n ≤ (t.last.toNat - s.last.toNat) * num.toNat / den.toNat ∧
    n * den.toNat + t.acc.toNat * num.toNat ≤ (t.last.toNat - s.last.toNat) * num.toNat

/-- R72 item 5: under Floor no chopping loses a cycle. -/
def Obligations.FloorNeverLosesCycles : Prop :=
  ∀ (s t : State) (num den : Word) (times : List Word) (n : Nat),
    s.remRound = .floor → s.running = true → Configured num den →
    ticksAlong num den times s = some (n, t) →
    (s.acc.toNat + (t.last.toNat - s.last.toNat)) * num.toNat ≤ n * den.toNat + t.acc.toNat * num.toNat

/-- R86: for an inexact ratio the source's bound of one tick is false. -/
def Obligations.InexactRatioDriftsBeyondOneTick : Prop :=
  ∃ (s t : State) (num den : Word) (times : List Word) (n : Nat),
    s.remRound = .ceil ∧ s.running = true ∧ s.acc = 0 ∧ Configured num den ∧
    ticksAlong num den times s = some (n, t) ∧
    n + 1 < (t.last.toNat - s.last.toNat) * num.toNat / den.toNat

/-! ## Events and errors -/

/-- R140, R141: an operation returns `event = 1` exactly when it is an `ACTUALIZE` that completed on a
running counter with a configured ratio and its mode's condition holds; the count is then as R141's
table says. -/
def Obligations.EventExactlyWhenBoundaryCrossed : Prop :=
  ∀ (i : Instr) (s t : State), exec i s = .next t →
    let T := t.out.ticks.toNat
    let E := effectiveLimit s.mode s.limit.toNat
    let nc := s.count.toNat + T
    (t.out.event = true ↔
      (∃ now num den, i = .actualize now num den ∧ Configured num den) ∧ t.out.err = .ok ∧
        s.running = true ∧
        ((s.mode = .countdown ∧ s.count.toNat ≤ T) ∨ (s.mode ≠ .countdown ∧ 1 ≤ E ∧ E < nc) ∨
          (s.mode ≠ .countdown ∧ E = 0 ∧ T ≠ 0))) ∧
    (t.out.event = true →
      t.count.toNat = if s.mode = .countdown ∨ E = 0 then 0 else nc % (E + 1))

/-- R146: an operation that returns an error changed no field but that error's sticky bit, and its other
results are 0; in particular never an error and an event together (R151). -/
def Obligations.RaiseChangesOneStickyBit : Prop :=
  ∀ (i : Instr) (s t : State), exec i s = .next t → t.out.err ≠ .ok →
    t = raised s (match t.out.err with
      | .ok => 0
      | .timeRegression => 0b00001
      | .overflow => 0b00010
      | .illegalCommand => 0b00100
      | .spuriousExpire => 0b01000) t.out.err

/-- R145: the five operations with a `now` operand reject a time before `last`, before any other check
of theirs (R151), and record nothing but `status[0]`. -/
def Obligations.TimeRegressionRejected : Prop :=
  ∀ (s : State) (now num den : Word), now < s.last →
    exec (.actualize now num den) s = .next (raised s 0b00001 .timeRegression) ∧
    exec (.rearm now num den) s = .next (raised s 0b00001 .timeRegression) ∧
    exec (.expire now) s = .next (raised s 0b00001 .timeRegression) ∧
    exec (.start now) s = .next (raised s 0b00001 .timeRegression) ∧
    exec (.reset now) s = .next (raised s 0b00001 .timeRegression)

/-- R147: `ACTUALIZE` raises `Overflow` when `acc + elapsed` does not fit, also with an unconfigured
ratio. -/
def Obligations.ActualizeOverflowOfCycles : Prop :=
  ∀ (s : State) (now num den : Word), s.last ≤ now → s.running = true →
    MAX64 < s.acc.toNat + (now.toNat - s.last.toNat) →
    exec (.actualize now num den) s = .next (raised s 0b00010 .overflow)

/-- R84, R147: a running, configured `ACTUALIZE` raises `Overflow` for its new count in Triangle mode
only, exactly when that count does not fit, and then `limit >= 2^63`. -/
def Obligations.ActualizeOverflowOfCount : Prop :=
  ∀ (s : State) (now num den : Word), s.last ≤ now → s.running = true → Configured num den →
    s.acc.toNat + (now.toNat - s.last.toNat) ≤ MAX64 →
    let nc := s.count.toNat + (s.acc.toNat + (now.toNat - s.last.toNat)) * num.toNat / den.toNat
    let c := if 2 * s.limit.toNat < nc then nc % (2 * s.limit.toNat + 1) else nc
    ∃ t, exec (.actualize now num den) s = .next t ∧
      (t.out.err ≠ .ok ↔ s.mode = .triangle ∧ s.limit ≠ 0 ∧ MAX64 < c) ∧
      (t.out.err ≠ .ok → t = raised s 0b00010 .overflow ∧ 2 ^ 63 ≤ s.limit.toNat)

/-- R150, R21: `STALL_LOGGED` comes on exactly when a running counter is presented an unconfigured ratio
by an `ACTUALIZE` or `REARM` that completes; that operation returns `OK`, so it is no error. -/
def Obligations.StallLoggedOnUnconfiguredRatio : Prop :=
  ∀ (i : Instr) (s t : State), exec i s = .next t → s.status.getLsbD 4 = false →
    (t.status.getLsbD 4 = true ↔ t.out.err = .ok ∧ s.running = true ∧
      ∃ now num den, (num = 0 ∨ den = 0) ∧ (i = .actualize now num den ∨ i = .rearm now num den))

/-! ## REARM, CANCEL, EXPIRE -/

/-- R92: on a stopped counter, or with an unconfigured ratio, `REARM` cancels; the latter sets
`status[4]` on a running counter only. -/
def Obligations.RearmCancels : Prop :=
  ∀ (s : State) (now num den : Word), s.last ≤ now →
    (s.running = false →
      exec (.rearm now num den) s = .next { s with armed := false, out := ⟨.ok, false, 0, 0⟩ }) ∧
    (s.running = true → num = 0 ∨ den = 0 →
      exec (.rearm now num den) s = .next { s with
        armed := false
        status := s.status ||| 0b10000
        out := ⟨.ok, false, 0, 0⟩ })

/-- R90, R93, R94, R95, R103: `REARM` on a running, configured counter. `n` is the ticks to the boundary,
or the next period's when none remain; the integers `m` (the ceiling of `n*den/num`) and `w` are R94's.
It arms at `now + w`, replacing any deadline, or raises `Overflow` when that is no timestamp. -/
def Obligations.RearmArmsAtDeadline : Prop :=
  ∀ (s : State) (now num den : Word), s.last ≤ now → s.running = true → Configured num den →
    let E := effectiveLimit s.mode s.limit.toNat
    let n := match s.mode with
      | .countdown => if s.count.toNat = 0 then s.limit.toNat else s.count.toNat
      | .sawtooth => if s.count.toNat < E then E - s.count.toNat else E + 1
      | .triangle => if s.count.toNat < E then E - s.count.toNat else E + 1
    ∀ m : Nat, n * den.toNat ≤ m * num.toNat → m * num.toNat < n * den.toNat + num.toNat →
      let w : Int := max 1 ((m : Int) - (s.acc.toNat : Int))
      (now.toNat + w.toNat ≤ MAX64 →
        exec (.rearm now num den) s = .next { s with
          armed := true
          target := BitVec.ofNat 64 (now.toNat + w.toNat)
          out := ⟨.ok, false, 0, 0⟩ }) ∧
      (MAX64 < now.toNat + w.toNat →
        exec (.rearm now num den) s = .next (raised s 0b00010 .overflow))

/-- R94: the wait is the least number of further host cycles, at least 1, after which the conversion
yields the ticks. -/
def Obligations.WaitIsLeastSufficient : Prop :=
  ∀ ticks num den acc : Nat, 0 < num → 0 < den →
    1 ≤ waitCycles ticks num den acc ∧
    ticks ≤ (acc + waitCycles ticks num den acc) * num / den ∧
    ∀ w, 1 ≤ w → ticks ≤ (acc + w) * num / den → waitCycles ticks num den acc ≤ w

/-- R96: `REARM` issued twice with the same operands leaves the state it left the first time. -/
def Obligations.RearmIdempotent : Prop :=
  ∀ (s t : State) (now num den : Word), exec (.rearm now num den) s = .next t →
    exec (.rearm now num den) t = .next t

/-- R97: `CANCEL` clears `armed` and nothing else, and is idempotent. -/
def Obligations.CancelDisarms : Prop :=
  ∀ s : State, exec .cancel s = .next { s with armed := false, out := ⟨.ok, false, 0, 0⟩ } ∧
    (s.armed = false → exec .cancel s = .next { s with out := ⟨.ok, false, 0, 0⟩ })

/-- R98: an expiry at or after the armed target, however late, consumes the deadline. -/
def Obligations.ExpireConsumesDueDeadline : Prop :=
  ∀ (s : State) (now : Word), s.last ≤ now → s.armed = true → s.target ≤ now →
    exec (.expire now) s = .next { s with armed := false, out := ⟨.ok, false, 0, 0⟩ }

/-- R149: an expiry with no armed deadline, or before it, is spurious. -/
def Obligations.SpuriousExpireRaised : Prop :=
  ∀ (s : State) (now : Word), s.last ≤ now → (s.armed = false ∨ now < s.target) →
    exec (.expire now) s = .next (raised s 0b01000 .spuriousExpire)

/-- R100: in Countdown mode the deadline armed at `now == last` is exactly the boundary: one later
`ACTUALIZE` with the same ratio reports the event if and only if it comes at or after `target`. -/
def Obligations.CountdownDeadlineIsBoundary : Prop :=
  ∀ (s t : State) (num den now : Word), s.mode = .countdown → s.running = true → s.count ≠ 0 →
    Configured num den → RemainderBelowTick num den s →
    exec (.rearm s.last num den) s = .next t → t.out.err = .ok →
    s.last ≤ now → s.acc.toNat + (now.toNat - s.last.toNat) ≤ MAX64 →
    ∃ u, exec (.actualize now num den) t = .next u ∧ u.out.err = .ok ∧
      (u.out.event = true ↔ t.target ≤ now)

/-- R101: in Sawtooth and Triangle mode, from below the effective limit, the deadline lands one tick
before the boundary: the `ACTUALIZE` at `target` reports no event and leaves the count at the limit. The
premise `num <= den` (at most one tick a host cycle) is R101's own arithmetic made exact: with more, the
conversion at `target` may yield more than the remaining ticks. -/
def Obligations.UpwardDeadlineIsOneTickEarly : Prop :=
  ∀ (s t : State) (num den : Word), s.mode ≠ .countdown → s.running = true →
    s.count.toNat < effectiveLimit s.mode s.limit.toNat →
    effectiveLimit s.mode s.limit.toNat ≤ MAX64 →
    Configured num den → num ≤ den → RemainderBelowTick num den s →
    exec (.rearm s.last num den) s = .next t → t.out.err = .ok →
    s.acc.toNat + (t.target.toNat - s.last.toNat) ≤ MAX64 →
    ∃ u, exec (.actualize t.target num den) t = .next u ∧ u.out.err = .ok ∧ u.out.event = false ∧
      u.count.toNat = effectiveLimit s.mode s.limit.toNat

/-- R102, R28: the host's queue entry mirrors (`armed`, `target`): the host calls an operation stands for
turn the entry before it into the entry after it, and never arm over an entry or remove one that is not
there, so no callback leaks. -/
def Obligations.HostQueueMirrorsDeadline : Prop :=
  ∀ (i : Instr) (s t : State), exec i s = .next t →
    applyHostCalls (hostCalls i s t) (hostEntry s) = some (hostEntry t)

/-! ## Run control, configuration and read-out -/

/-- R105: `START` of a stopped counter; of a running one it does nothing, not even to `last`. -/
def Obligations.StartRunsStoppedCounter : Prop :=
  ∀ (s : State) (now : Word), s.last ≤ now →
    (s.running = false → exec (.start now) s =
      .next { s with running := true, last := now, out := ⟨.ok, false, 0, 0⟩ }) ∧
    (s.running = true → exec (.start now) s = .next { s with out := ⟨.ok, false, 0, 0⟩ })

/-- R106: `STOP` clears `running` and `armed` and nothing else. -/
def Obligations.StopStopsAndDisarms : Prop :=
  ∀ s : State, exec .stop s =
    .next { s with running := false, armed := false, out := ⟨.ok, false, 0, 0⟩ }

/-- R107: `RESET` zeroes `count` and `acc`, sets `last`, and nothing else. -/
def Obligations.ResetHasThreeEffects : Prop :=
  ∀ (s : State) (now : Word), s.last ≤ now →
    exec (.reset now) s = .next { s with count := 0, acc := 0, last := now, out := ⟨.ok, false, 0, 0⟩ }

/-- R108, R110: `SETLIMIT` writes `limit` and `LOAD` writes `count`, any value, and nothing else. -/
def Obligations.SetlimitAndLoadWriteOneField : Prop :=
  ∀ (s : State) (v : Word),
    exec (.setlimit v) s = .next { s with limit := v, out := ⟨.ok, false, 0, 0⟩ } ∧
    exec (.load v) s = .next { s with count := v, out := ⟨.ok, false, 0, 0⟩ }

/-- R109, R54: `SETMODE` with each tag; tag 3 is refused. -/
def Obligations.SetmodeWritesMode : Prop :=
  ∀ s : State,
    exec (.setmode 0b00) s = .next { s with mode := .sawtooth, out := ⟨.ok, false, 0, 0⟩ } ∧
    exec (.setmode 0b01) s = .next { s with mode := .triangle, out := ⟨.ok, false, 0, 0⟩ } ∧
    exec (.setmode 0b10) s = .next { s with mode := .countdown, out := ⟨.ok, false, 0, 0⟩ } ∧
    exec (.setmode 0b11) s = .next (raised s 0b00100 .illegalCommand)

/-- R111, R31: `READ` changes no field and returns the visible value, folded in Triangle mode. -/
def Obligations.ReadReturnsVisibleValue : Prop :=
  ∀ s : State, ∃ v : Word, exec .read s = .next { s with out := ⟨.ok, false, 0, v⟩ } ∧
    (s.mode ≠ .triangle ∨ s.count ≤ s.limit → v = s.count) ∧
    (s.mode = .triangle → s.limit < s.count → s.count.toNat ≤ 2 * s.limit.toNat →
      v.toNat = 2 * s.limit.toNat - s.count.toNat) ∧
    (s.mode = .triangle → 2 * s.limit.toNat < s.count.toNat → v = 0)

/-- R31: whatever the stored count, a Triangle counter never shows more than `limit`, and it shows the
same value at `limit + d` as at `limit - d`. -/
def Obligations.TriangleReadsFoldAtLimit : Prop :=
  ∀ s t : State, s.mode = .triangle → exec .read s = .next t →
    t.out.rdata ≤ s.limit ∧
    ∀ d : Nat, d ≤ s.limit.toNat → s.count.toNat = s.limit.toNat + d →
      exec .read { s with count := BitVec.ofNat 64 (s.limit.toNat - d) } =
        .next { t with count := BitVec.ofNat 64 (s.limit.toNat - d) }

/-- R112, R12: `RDF` of each selector returns that field, zero-extended, and changes none; the reserved
selectors are refused. -/
def Obligations.RdfReturnsSelectedField : Prop :=
  ∀ s : State,
    exec (.rdf 0) s = .next { s with out := ⟨.ok, false, 0, s.count⟩ } ∧
    exec (.rdf 1) s = .next { s with out := ⟨.ok, false, 0, s.limit⟩ } ∧
    exec (.rdf 2) s = .next { s with out := ⟨.ok, false, 0, s.acc⟩ } ∧
    exec (.rdf 3) s = .next { s with out := ⟨.ok, false, 0, s.last⟩ } ∧
    exec (.rdf 4) s = .next { s with out := ⟨.ok, false, 0, if s.running then 1 else 0⟩ } ∧
    exec (.rdf 5) s = .next { s with out := ⟨.ok, false, 0,
      match s.mode with | .sawtooth => 0 | .triangle => 1 | .countdown => 2⟩ } ∧
    exec (.rdf 6) s = .next { s with out := ⟨.ok, false, 0, if s.armed then 1 else 0⟩ } ∧
    exec (.rdf 7) s = .next { s with out := ⟨.ok, false, 0, s.target⟩ } ∧
    exec (.rdf 8) s = .next { s with out := ⟨.ok, false, 0, BitVec.ofNat 64 s.status.toNat⟩ } ∧
    ∀ sel : BitVec 4, 8 < sel.toNat → exec (.rdf sel) s = .next (raised s 0b00100 .illegalCommand)

/-! ## The whole machine -/

/-- R12's "written by" column for the fields of selectors 0 to 7: an operation changes a field only if it
is one of that field's writers. The last clause is not R12's: that the rounding parameter and the issued
bundles are fields, which no operation writes, is the model's own choice (log 4, log 1). -/
def Obligations.OnlyListedOperationsWriteField : Prop :=
  ∀ (i : Instr) (s t : State), exec i s = .next t →
    (t.count ≠ s.count → (∃ a b c, i = .actualize a b c) ∨ (∃ a, i = .reset a) ∨ ∃ a, i = .load a) ∧
    (t.limit ≠ s.limit → ∃ a, i = .setlimit a) ∧
    (t.acc ≠ s.acc → (∃ a b c, i = .actualize a b c) ∨ ∃ a, i = .reset a) ∧
    (t.last ≠ s.last → (∃ a b c, i = .actualize a b c) ∨ (∃ a, i = .start a) ∨ ∃ a, i = .reset a) ∧
    (t.running ≠ s.running → (∃ a, i = .start a) ∨ i = .stop) ∧
    (t.mode ≠ s.mode → ∃ a, i = .setmode a) ∧
    (t.armed ≠ s.armed → (∃ a b c, i = .rearm a b c) ∨ i = .cancel ∨ (∃ a, i = .expire a) ∨ i = .stop) ∧
    (t.target ≠ s.target → ∃ a b c, i = .rearm a b c) ∧
    t.remRound = s.remRound ∧ t.pending = s.pending

/-- R22: no step clears a set bit of `status`, and so none makes a nonzero `status` 0 again. -/
def Obligations.StatusBitsAreSticky : Prop :=
  ∀ s t : State, step s = .next t →
    (∀ k : Nat, s.status.getLsbD k = true → t.status.getLsbD k = true) ∧ (s.status ≠ 0 → t.status ≠ 0)

/-- R45, R145: `last` never moves backwards, whatever is issued. -/
def Obligations.LastNeverMovesBack : Prop :=
  ∀ s t : State, step s = .next t → s.last ≤ t.last

/-- R106, R92: a deadline is armed only on a running counter: every step keeps it so. -/
def Obligations.ArmedOnlyWhileRunning : Prop :=
  ∀ s t : State, ArmedOnlyRunning s → step s = .next t → ArmedOnlyRunning t

/-- R29, R165: an instance as created, whatever values R29 leaves open: stopped, unarmed, at `T0`, its
counters and `status` 0, so that the invariants hold. -/
def Obligations.CreatedStoppedAndUnarmed : Prop :=
  ∀ c : Creation,
    let s := State.created c
    s.count = 0 ∧ s.acc = 0 ∧ s.last = c.t0 ∧ s.running = false ∧ s.armed = false ∧ s.status = 0 ∧
    s.limit = c.initLimit ∧ s.mode = c.initMode ∧ ArmedOnlyRunning s ∧ WithinSpan s ∧ FaultFree s

/-- R146, R136: the block is never stuck: every state has a next state, whatever is issued. That a step
with nothing issued answers too is the model's own choice (log 2), and that no operation ends in a fault
or a refusal is read from R146 by inference (DEDUCED, log 12). -/
def Obligations.EveryStepAnswersNext : Prop := ∀ s : State, ∃ t, step s = .next t

/-- R26 and the model's fields of log 1 and log 3: no operation reads the results of an earlier one, nor
what is issued after it. -/
def Obligations.ResultsAndQueueAreNotRead : Prop :=
  ∀ (i : Instr) (s t : State) (o : Results) (p : List Bundle), exec i s = .next t →
    exec i { s with out := o, pending := p } = .next { t with pending := p }

/-- R46, R159: steps of two instances commute, and a step of one leaves the others as they are. -/
def Obligations.InstancesCommute : Prop :=
  ∀ (b : Board) (j k : Nat), j ≠ k →
    (b.stepAt j).stepAt k = (b.stepAt k).stepAt j ∧ (b.stepAt j).instances[k]? = b.instances[k]?

/-! ## The adapter protocol -/

/-- R135, R91: in every pseudo-operation that runs to its end, whatever the adapter's reaction, `last` is
the sequence's `now` at the end: its `REARM` saw `now == last`. `ENABLE`'s window (log 14), the end of a
sequence at a raise (log 15) and the closing `REARM` of `TIMED_READ` (log 17) are the model's (DEDUCED). -/
def Obligations.SequenceEndsAtItsTime : Prop :=
  ∀ (p : PseudoOp) (reaction : List Reaction) (s : State),
    (p.run reaction s).ended = false → (p.run reaction s).state.last = p.now

/-- R128: `ENABLE` on a stopped counter, whatever the reaction (no event can occur): it starts the
counter at `now`, keeps `count` and `acc`, and arms as `REARM` does from there. `ENABLE`'s window is the
model's (DEDUCED, log 14). -/
def Obligations.EnableStartsAndArms : Prop :=
  ∀ (s : State) (now : Word) (r : Ratio) (reaction : List Reaction),
    s.last ≤ now → s.running = false → Configured r.num r.den →
    let t := now.toNat + waitCycles (ticksToArm s.mode s.limit.toNat s.count.toNat)
      r.num.toNat r.den.toNat s.acc.toNat
    t ≤ MAX64 →
    ((PseudoOp.enable now r).run reaction s).ended = false ∧
    ((PseudoOp.enable now r).run reaction s).state = { s with
      last := now
      running := true
      armed := true
      target := BitVec.ofNat 64 t
      out := ⟨.ok, false, 0, 0⟩ }

/-- R113, R129: `DISABLE` that runs to its end leaves the counter stopped and unarmed, and a second
`DISABLE` at the same time, with any ratio and reaction, leaves the same state. That a raise ends the
sequence is the model's (DEDUCED, log 15). -/
def Obligations.DisableStopsIdempotently : Prop :=
  ∀ (s : State) (now : Word) (r r' : Ratio) (reaction reaction' : List Reaction),
    let t := ((PseudoOp.disable now r).run reaction s).state
    ((PseudoOp.disable now r).run reaction s).ended = false →
    t.running = false ∧ t.armed = false ∧ ((PseudoOp.disable now r').run reaction' t).state = t

/-- R133, R98: the host's callback at any time it may be delivered, on a Countdown counter at its armed
boundary and with no reaction: one event, the count at 0, and the next deadline armed a period of
`limit` ticks ahead. -/
def Obligations.CallbackDeliversCountdownEvent : Prop :=
  ∀ (s : State) (now : Word) (r : Ratio), s.mode = .countdown → s.running = true →
    Configured r.num r.den → hostMayExpire now s = true → s.last ≤ now →
    s.acc.toNat + (now.toNat - s.last.toNat) ≤ MAX64 →
    let a := s.acc.toNat + (now.toNat - s.last.toNat)
    let T := a * r.num.toNat / r.den.toNat
    let a' := (convert s.remRound a r.num.toNat r.den.toNat).acc
    let w := waitCycles s.limit.toNat r.num.toNat r.den.toNat a'
    s.count.toNat ≤ T → now.toNat + w ≤ MAX64 →
    (PseudoOp.deadlineCallback now r).run [] s =
      { state := { s with
          count := 0
          acc := BitVec.ofNat 64 a'
          last := now
          armed := true
          target := BitVec.ofNat 64 (now.toNat + w)
          out := ⟨.ok, false, 0, 0⟩ }
        results := [⟨.ok, false, 0, 0⟩, ⟨.ok, true, BitVec.ofNat 128 T, 0⟩, ⟨.ok, false, 0, 0⟩]
        reacted := false
        ended := false }

/-- R169, R29: the start-up sequence on an instance as created, whatever values R29 leaves open, runs to
its end with the mode, limit and count it wrote, running and armed: none of the open values is left in
`mode`, `limit`, `count`, `acc`, `last` or `target`. -/
def Obligations.StartUpIndependentOfOpenValues : Prop :=
  ∀ (c : Creation) (m : Mode) (p : Word) (v : Option Word) (now : Word) (r : Ratio),
    c.t0 ≤ now → Configured r.num r.den →
    let count := v.getD 0
    let t := now.toNat + waitCycles (ticksToArm m p.toNat count.toNat) r.num.toNat r.den.toNat 0
    t ≤ MAX64 →
    (runInstrs (startUp m p v now r) (State.created c)).ended = false ∧
    (runInstrs (startUp m p v now r) (State.created c)).state =
      { count := count, limit := p, acc := 0, last := now, running := true, mode := m, armed := true
        target := BitVec.ofNat 64 t, status := 0, out := ⟨.ok, false, 0, 0⟩
        remRound := c.remRound, pending := [] }
end

