-- ==== Sys2Proof/Laws/State.lean ====
section
/-! SUPPORT. The small lemmas of the state: each field after `State.log` and after creation, and the
status word. A record update `{ s with … }` needs no lemma: its projections reduce. -/

namespace Sys2Proof.Machine

variable (s : State) (bits : Status) (c : Creation)

@[simp] theorem State.log_count : (s.log bits).count = s.count := rfl
@[simp] theorem State.log_limit : (s.log bits).limit = s.limit := rfl
@[simp] theorem State.log_acc : (s.log bits).acc = s.acc := rfl
@[simp] theorem State.log_last : (s.log bits).last = s.last := rfl
@[simp] theorem State.log_running : (s.log bits).running = s.running := rfl
@[simp] theorem State.log_mode : (s.log bits).mode = s.mode := rfl
@[simp] theorem State.log_armed : (s.log bits).armed = s.armed := rfl
@[simp] theorem State.log_target : (s.log bits).target = s.target := rfl
@[simp] theorem State.log_status : (s.log bits).status = s.status ||| bits := rfl
@[simp] theorem State.log_out : (s.log bits).out = s.out := rfl
@[simp] theorem State.log_remRound : (s.log bits).remRound = s.remRound := rfl
@[simp] theorem State.log_pending : (s.log bits).pending = s.pending := rfl

@[simp] theorem State.created_count : (State.created c).count = 0 := rfl
@[simp] theorem State.created_limit : (State.created c).limit = c.initLimit := rfl
@[simp] theorem State.created_acc : (State.created c).acc = 0 := rfl
@[simp] theorem State.created_last : (State.created c).last = c.t0 := rfl
@[simp] theorem State.created_running : (State.created c).running = false := rfl
@[simp] theorem State.created_mode : (State.created c).mode = c.initMode := rfl
@[simp] theorem State.created_armed : (State.created c).armed = false := rfl
@[simp] theorem State.created_target : (State.created c).target = c.initTarget := rfl
@[simp] theorem State.created_status : (State.created c).status = 0 := rfl
@[simp] theorem State.created_out : (State.created c).out = .plain := rfl
@[simp] theorem State.created_remRound : (State.created c).remRound = c.remRound := rfl
@[simp] theorem State.created_pending : (State.created c).pending = [] := rfl

@[simp] theorem Results.plain_err : Results.plain.err = .ok := rfl
@[simp] theorem Results.plain_event : Results.plain.event = false := rfl
@[simp] theorem Results.plain_ticks : Results.plain.ticks = 0 := rfl
@[simp] theorem Results.plain_rdata : Results.plain.rdata = 0 := rfl

/-- Logging never clears a bit. -/
theorem State.log_keeps_bit (k : Nat) (h : s.status.getLsbD k = true) :
    (s.log bits).status.getLsbD k = true := by
  simp [h]

end Sys2Proof.Machine
end

