-- ==== Sys2Proof/Laws/Ops.lean ====
section
/-! SUPPORT. One lemma for each shared operation that says what it can do, to be cited instead of
unfolding it. -/

namespace Sys2Proof.Machine

/-! ## Ending an operation -/

theorem complete_next_iff (r : Results) (s t : State) :
    complete r s = .next t ↔ t = { s with out := r } := by
  simp [complete, eq_comm]

theorem completeOk_next_iff (s t : State) : completeOk s = .next t ↔ t = { s with out := .plain } :=
  complete_next_iff .plain s t

theorem raise_next_iff (e : Err) (s t : State) :
    raise e s = .next t ↔ t = { s with status := s.status ||| e.statusBit, out := ⟨e, false, 0, 0⟩ } :=
  complete_next_iff _ (s.log e.statusBit) t

/-! ## Integer functions -/

/-- `ceilDiv a b` is at most `c` exactly when `c` times `b` reaches `a`. -/
theorem ceilDiv_le_iff {b : Nat} (hb : 0 < b) (a c : Nat) : ceilDiv a b ≤ c ↔ a ≤ c * b := by
  rw [ceilDiv, Nat.div_le_iff_le_mul_add_pred hb]
  have : b * c = c * b := Nat.mul_comm b c
  omega

theorem le_ceilDiv_mul {b : Nat} (hb : 0 < b) (a : Nat) : a ≤ ceilDiv a b * b :=
  (ceilDiv_le_iff hb a _).1 (Nat.le_refl _)

theorem ceilDiv_mul_lt {b : Nat} (hb : 0 < b) (a : Nat) : ceilDiv a b * b < a + b := by
  have := Nat.div_mul_le_self (a + b - 1) b
  unfold ceilDiv
  omega

/-- Both roundings are at most `c` when `c * b` reaches `a`. -/
theorem divRound_le (r : Rounding) {a b c : Nat} (hb : 0 < b) (h : a ≤ c * b) : divRound r a b ≤ c := by
  cases r with
  | ceil => exact (ceilDiv_le_iff hb a c).2 h
  | floor => exact Nat.div_le_of_le_mul (by rwa [Nat.mul_comm] at h)

/-! ## The rational conversion -/

theorem convert_acc_le (r : Rounding) (a num den : Nat) : (convert r a num den).acc ≤ a :=
  Nat.sub_le _ _

/-- The cycles a conversion takes are no more than there are (R72 item 1). -/
theorem convert_taken_le (r : Rounding) (a : Nat) {num : Nat} (den : Nat) (hn : 0 < num) :
    divRound r ((convert r a num den).ticks * den) num ≤ a :=
  divRound_le r hn (Nat.div_mul_le_self _ _)

/-- The `ticks` port is wide enough (R84). -/
theorem convert_ticks_lt (r : Rounding) {a num : Nat} (den : Nat) (ha : a < 2 ^ 64) (hn : num < 2 ^ 64) :
    (convert r a num den).ticks < 2 ^ 128 := by
  have h : a * num < 2 ^ 64 * 2 ^ 64 := Nat.mul_lt_mul'' ha hn
  exact Nat.lt_of_le_of_lt (Nat.div_le_self _ _) (by simpa using h)

/-! ## The counting modes -/

theorem advanceDown_count_le (count ticks : Nat) : (advanceDown count ticks).count ≤ count := by
  unfold advanceDown; split <;> simp

theorem advanceDown_event_iff (count ticks : Nat) :
    (advanceDown count ticks).event = true ↔ count ≤ ticks := by
  unfold advanceDown; split <;> simp_all

/-- Counting up always ends inside the span (R85). -/
theorem advanceUp_count_le (e count ticks : Nat) : (advanceUp e count ticks).count ≤ e := by
  unfold advanceUp
  split
  · simp
  · split
    · exact Nat.lt_succ_iff.1 (Nat.mod_lt _ (Nat.succ_pos e))
    · dsimp only; omega

theorem advanceUp_event_iff (e count ticks : Nat) :
    (advanceUp e count ticks).event = true ↔ (e = 0 ∧ ticks ≠ 0) ∨ (e ≠ 0 ∧ e < count + ticks) := by
  unfold advanceUp; split <;> [simp_all; (split <;> simp_all)]

/-- Everything the end of a running, configured `ACTUALIZE` can do. -/
theorem storeAdvance_next_cases {now : Word} {acc ticks : Nat} {adv : Advanced} {s t : State}
    (h : storeAdvance now acc ticks adv s = .next t) :
    (MAX64 < adv.count ∧
      t = { s with status := s.status ||| Err.overflow.statusBit, out := ⟨.overflow, false, 0, 0⟩ }) ∨
    (adv.count ≤ MAX64 ∧ t = { s with
      last := now
      acc := BitVec.ofNat 64 acc
      count := BitVec.ofNat 64 adv.count
      out := ⟨.ok, adv.event, BitVec.ofNat 128 ticks, 0⟩ }) := by
  unfold storeAdvance at h
  split at h
  · exact .inl ⟨‹_›, (raise_next_iff _ _ _).1 h⟩
  · exact .inr ⟨Nat.le_of_not_lt ‹_›, (complete_next_iff _ _ _).1 h⟩

/-! ## The deadline -/

theorem one_le_waitCycles (ticks num den acc : Nat) : 1 ≤ waitCycles ticks num den acc :=
  Nat.le_max_left _ _

/-- Everything arming can do. -/
theorem armAt_next_cases {n : Nat} {s t : State} (h : armAt n s = .next t) :
    (MAX64 < n ∧
      t = { s with status := s.status ||| Err.overflow.statusBit, out := ⟨.overflow, false, 0, 0⟩ }) ∨
    (n ≤ MAX64 ∧ t = { s with armed := true, target := BitVec.ofNat 64 n, out := .plain }) := by
  unfold armAt at h
  split at h
  · exact .inl ⟨‹_›, (raise_next_iff _ _ _).1 h⟩
  · exact .inr ⟨Nat.le_of_not_lt ‹_›, (completeOk_next_iff _ _).1 h⟩

/-! ## Operands -/

theorem unconfigured_eq_false_iff (num den : Word) :
    unconfigured num den = false ↔ num ≠ 0 ∧ den ≠ 0 := by
  simp [unconfigured]

theorem modeOfTag_modeTag (m : Mode) : modeOfTag (modeTag m) = some m := by cases m <;> rfl

theorem readField_isSome_iff (s : State) (sel : BitVec 4) :
    (readField s sel).isSome = true ↔ sel.toNat ≤ 8 := by
  have h := sel.isLt
  unfold readField
  split <;> simp_all
  omega

/-! ## Issue -/

theorem fetch_cons (s : State) (b : Bundle) (rest : List Bundle) (h : s.pending = b :: rest) :
    fetch s = some (b, { s with pending := rest }) := by
  simp [fetch, h]

theorem fetch_nil (s : State) (h : s.pending = []) : fetch s = none := by
  simp [fetch, h]

end Sys2Proof.Machine
end

