-- ==== Sys2Proof/Laws/Meanings.lean ====
section
/-! SUPPORT. For each operation with more than one outcome, everything it can do, guards included; and
the same for a step. Later proofs split on these and do not unfold the meanings. -/

namespace Sys2Proof.Machine

variable {s t : State} {now num den : Word}

/-- The five outcomes of `ACTUALIZE` before its conversion, and the conversion. -/
theorem execActualize_next_cases (h : execActualize now num den s = .next t) :
    (now < s.last ∧ raise .timeRegression s = .next t) ∨
    (¬ now < s.last ∧ s.running = false ∧ t = { s with last := now, out := .plain }) ∨
    (¬ now < s.last ∧ s.running = true ∧ MAX64 < cyclesAt now s ∧ raise .overflow s = .next t) ∨
    (¬ now < s.last ∧ s.running = true ∧ cyclesAt now s ≤ MAX64 ∧ unconfigured num den = true ∧
      t = { s with last := now, acc := BitVec.ofNat 64 (cyclesAt now s)
                   status := s.status ||| stallLogged, out := .plain }) ∨
    (¬ now < s.last ∧ s.running = true ∧ cyclesAt now s ≤ MAX64 ∧ unconfigured num den = false ∧
      storeAdvance now (convert s.remRound (cyclesAt now s) num.toNat den.toNat).acc
        (convert s.remRound (cyclesAt now s) num.toNat den.toNat).ticks
        (advance s.mode s.limit.toNat s.count.toNat
          (convert s.remRound (cyclesAt now s) num.toNat den.toNat).ticks) s = .next t) := by
  unfold execActualize at h
  split at h
  · exact .inl ⟨‹_›, h⟩
  split at h
  · exact .inr (.inl ⟨‹_›, ‹_›, (completeOk_next_iff _ _).1 h⟩)
  have hr : s.running = true := by simpa using ‹¬ s.running = false›
  split at h
  · exact .inr (.inr (.inl ⟨‹_›, hr, ‹_›, h⟩))
  have ha : cyclesAt now s ≤ MAX64 := Nat.le_of_not_lt ‹_›
  split at h
  · exact .inr (.inr (.inr (.inl ⟨‹_›, hr, ha, ‹_›, (completeOk_next_iff _ _).1 h⟩)))
  · exact .inr (.inr (.inr (.inr ⟨‹_›, hr, ha, by simpa using ‹¬ unconfigured num den = true›, h⟩)))

/-- The outcomes of `REARM` before it arms, and the arming. -/
theorem execRearm_next_cases (h : execRearm now num den s = .next t) :
    (now < s.last ∧ raise .timeRegression s = .next t) ∨
    (¬ now < s.last ∧ s.running = false ∧ t = { s with armed := false, out := .plain }) ∨
    (¬ now < s.last ∧ s.running = true ∧ unconfigured num den = true ∧
      t = { s with armed := false, status := s.status ||| stallLogged, out := .plain }) ∨
    (¬ now < s.last ∧ s.running = true ∧ unconfigured num den = false ∧
      armAt (now.toNat + waitCycles (ticksToArm s.mode s.limit.toNat s.count.toNat)
        num.toNat den.toNat s.acc.toNat) s = .next t) := by
  unfold execRearm at h
  split at h
  · exact .inl ⟨‹_›, h⟩
  split at h
  · exact .inr (.inl ⟨‹_›, ‹_›, (completeOk_next_iff _ _).1 h⟩)
  have hr : s.running = true := by simpa using ‹¬ s.running = false›
  split at h
  · exact .inr (.inr (.inl ⟨‹_›, hr, ‹_›, (completeOk_next_iff _ _).1 h⟩))
  · exact .inr (.inr (.inr ⟨‹_›, hr, by simpa using ‹¬ unconfigured num den = true›, h⟩))

theorem execExpire_next_cases (h : execExpire now s = .next t) :
    (now < s.last ∧ raise .timeRegression s = .next t) ∨
    (¬ now < s.last ∧ (s.armed = false ∨ now < s.target) ∧ raise .spuriousExpire s = .next t) ∨
    (¬ now < s.last ∧ s.armed = true ∧ ¬ now < s.target ∧ t = { s with armed := false, out := .plain }) := by
  unfold execExpire at h
  split at h
  · exact .inl ⟨‹_›, h⟩
  split at h
  · exact .inr (.inl ⟨‹_›, ‹_›, h⟩)
  · have hn := not_or.1 ‹¬ (s.armed = false ∨ now < s.target)›
    exact .inr (.inr ⟨‹_›, by simpa using hn.1, hn.2, (completeOk_next_iff _ _).1 h⟩)

theorem execStart_next_cases (h : execStart now s = .next t) :
    (now < s.last ∧ raise .timeRegression s = .next t) ∨
    (¬ now < s.last ∧ s.running = false ∧ t = { s with running := true, last := now, out := .plain }) ∨
    (¬ now < s.last ∧ s.running = true ∧ t = { s with out := .plain }) := by
  unfold execStart at h
  split at h
  · exact .inl ⟨‹_›, h⟩
  split at h
  · exact .inr (.inl ⟨‹_›, ‹_›, (completeOk_next_iff _ _).1 h⟩)
  · exact .inr (.inr ⟨‹_›, by simpa using ‹¬ s.running = false›, (completeOk_next_iff _ _).1 h⟩)

theorem execReset_next_cases (h : execReset now s = .next t) :
    (now < s.last ∧ raise .timeRegression s = .next t) ∨
    (¬ now < s.last ∧ t = { s with count := 0, acc := 0, last := now, out := .plain }) := by
  unfold execReset at h
  split at h
  · exact .inl ⟨‹_›, h⟩
  · exact .inr ⟨‹_›, (completeOk_next_iff _ _).1 h⟩

theorem execSetmode_next_cases {tag : BitVec 2} (h : execSetmode tag s = .next t) :
    (∃ m, modeOfTag tag = some m ∧ t = { s with mode := m, out := .plain }) ∨
    (modeOfTag tag = none ∧ raise .illegalCommand s = .next t) := by
  unfold execSetmode at h
  cases hm : modeOfTag tag with
  | some m => exact .inl ⟨m, rfl, (completeOk_next_iff _ _).1 (by simpa only [hm] using h)⟩
  | none => exact .inr ⟨rfl, by simpa only [hm] using h⟩

theorem execRdf_next_cases {sel : BitVec 4} (h : execRdf sel s = .next t) :
    (∃ v, readField s sel = some v ∧ t = { s with out := ⟨.ok, false, 0, v⟩ }) ∨
    (readField s sel = none ∧ raise .illegalCommand s = .next t) := by
  unfold execRdf at h
  cases hv : readField s sel with
  | some v => exact .inl ⟨v, rfl, (complete_next_iff _ _ _).1 (by simpa only [hv] using h)⟩
  | none => exact .inr ⟨rfl, by simpa only [hv] using h⟩

/-- A step does nothing, executes a decoded operation, or raises `IllegalCommand`; only the first bundle
leaves the queue. -/
theorem step_next_cases (h : step s = .next t) :
    (s.pending = [] ∧ t = s) ∨
    (∃ b rest i, s.pending = b :: rest ∧ Sys2Proof.decode b = .ok i ∧
      exec i { s with pending := rest } = .next t) ∨
    (∃ b rest e, s.pending = b :: rest ∧ Sys2Proof.decode b = .error e ∧
      raise .illegalCommand { s with pending := rest } = .next t) := by
  cases hp : s.pending with
  | nil =>
    simp only [step, fetch_nil s hp, idle, Host.Outcome.next.injEq] at h
    exact .inl ⟨rfl, h.symm⟩
  | cons b rest =>
    simp only [step, fetch_cons s b rest hp] at h
    cases hd : Sys2Proof.decode b with
    | ok i => exact .inr (.inl ⟨b, rest, i, rfl, hd, by simpa only [hd] using h⟩)
    | error e => exact .inr (.inr ⟨b, rest, e, rfl, hd, by simpa only [hd, rejectCommand] using h⟩)

end Sys2Proof.Machine
end

