-- ==== Sys2Proof/Laws/PerInstr.lean ====
section
/-! SUPPORT. Families of facts stated of each operation: one lemma for each constructor of `Instr`. -/

namespace Sys2Proof.Laws

/-- R52: the selector of an operation's own command byte is zero in formats N, T, R and W, and has
`sel[3:2]` zero in format M. -/
def SelectorAsFormatSays.Statement (i : Instr) : Prop :=
  (i.format ≠ .m → i.format ≠ .f → selField i.cmdByte = 0) ∧
  (i.format = .m → (selField i.cmdByte).extractLsb' 2 2 = 0)

namespace SelectorAsFormatSays

/-- A command byte with a zero selector, in any format but M. -/
theorem of_cmdByte {i : Instr} (c : Cmd) (h : i.cmdByte = c) (hsel : selField c = 0)
    (hm : i.format ≠ .m) : Statement i :=
  ⟨fun _ _ => h ▸ hsel, fun e => absurd e hm⟩

theorem actualize (now num den : Word) : Statement (.actualize now num den) :=
  of_cmdByte 0x10 rfl rfl Format.noConfusion
theorem rearm (now num den : Word) : Statement (.rearm now num den) :=
  of_cmdByte 0x20 rfl rfl Format.noConfusion
theorem expire (now : Word) : Statement (.expire now) := of_cmdByte 0x30 rfl rfl Format.noConfusion
theorem cancel : Statement .cancel := of_cmdByte 0x40 rfl rfl Format.noConfusion
theorem start (now : Word) : Statement (.start now) := of_cmdByte 0x50 rfl rfl Format.noConfusion
theorem stop : Statement .stop := of_cmdByte 0x60 rfl rfl Format.noConfusion
theorem reset (now : Word) : Statement (.reset now) := of_cmdByte 0x70 rfl rfl Format.noConfusion
theorem setlimit (wdata : Word) : Statement (.setlimit wdata) :=
  of_cmdByte 0x80 rfl rfl Format.noConfusion

/-- `sel[3:2]` of each of the four bytes of `SETMODE`. -/
theorem setmode_sel_high : ∀ tag : BitVec 2, (selField (0b100100#6 ++ tag)).extractLsb' 2 2 = 0 := by
  decide

theorem setmode (tag : BitVec 2) : Statement (.setmode tag) :=
  ⟨fun h => absurd rfl h, fun _ => setmode_sel_high tag⟩
theorem load (wdata : Word) : Statement (.load wdata) := of_cmdByte 0xA0 rfl rfl Format.noConfusion
theorem read : Statement .read := of_cmdByte 0xB0 rfl rfl Format.noConfusion
theorem rdf (sel : BitVec 4) : Statement (.rdf sel) :=
  ⟨fun _ h => absurd rfl h, fun h => Format.noConfusion h⟩

end SelectorAsFormatSays

end Sys2Proof.Laws
end

