-- ==== Sys2Proof/Laws/Protocol.lean ====
section
/-! SUPPORT. The protocol's small lemmas: what issuing a primitive can do, and that every primitive of a
sequence is one its agents issue (60_exceptions.md R156). -/

namespace Sys2Proof.Machine

/-! ## Issuing -/

theorem Run.issue_of_ended (r : Run) (i : Instr) (h : r.ended = true) : r.issue i = r := by
  simp [Run.issue, h]

/-- Everything issuing a primitive of a sequence still going can do when the block answers. -/
theorem Run.issue_of_next (r : Run) (i : Instr) (t : State) (h : r.ended = false)
    (ht : exec i r.state = .next t) :
    r.issue i = { r with state := t, results := r.results ++ [t.out], ended := t.out.err != .ok } := by
  simp [Run.issue, h, ht]

/-! ## Agents -/

theorem Agent.issuesPseudo_iff (a : Agent) (p : PseudoOp) : a.issuesPseudo p = true ↔ p.issuer = a := by
  simp [Agent.issuesPseudo]

/-- An agent runs exactly the pseudo-operations it issues. -/
theorem Agent.runPseudo_eq_some_iff (a : Agent) (p : PseudoOp) (reaction : List Reaction) (s : State)
    (r : Run) : a.runPseudo p reaction s = some r ↔ p.issuer = a ∧ r = p.run reaction s := by
  rw [Agent.runPseudo, ← Agent.issuesPseudo_iff]
  cases a.issuesPseudo p <;> simp [eq_comm (a := r)]

/-- The host issues `DEADLINE_CALLBACK` and no other pseudo-operation. -/
theorem PseudoOp.issuer_eq_hostScheduler_iff (p : PseudoOp) :
    p.issuer = .hostScheduler ↔ ∃ now r, p = .deadlineCallback now r := by
  cases p <;> simp [PseudoOp.issuer]

theorem PseudoOp.issuer_ne_observer (p : PseudoOp) : p.issuer ≠ .observer := by
  cases p <;> simp [PseudoOp.issuer]

@[simp] theorem Agent.adapter_issues_actualize (now num den : Word) :
    Agent.adapter.issues (.actualize now num den) = true := rfl
@[simp] theorem Agent.adapter_issues_rearm (now num den : Word) :
    Agent.adapter.issues (.rearm now num den) = true := rfl
@[simp] theorem Agent.adapter_issues_start (now : Word) : Agent.adapter.issues (.start now) = true := rfl
@[simp] theorem Agent.adapter_issues_stop : Agent.adapter.issues .stop = true := rfl
@[simp] theorem Agent.adapter_issues_reset (now : Word) : Agent.adapter.issues (.reset now) = true := rfl
@[simp] theorem Agent.adapter_issues_setlimit (v : Word) :
    Agent.adapter.issues (.setlimit v) = true := rfl
@[simp] theorem Agent.adapter_issues_read : Agent.adapter.issues .read = true := rfl

/-- The writes of `CONFIG_WRITE` are operations the adapter issues. -/
@[simp] theorem ConfigWrite.issued_by_adapter (w : ConfigWrite) :
    Agent.adapter.issues w.instr = true := by
  cases w <;> rfl

/-- The optional writes of `DEVICE_RESET` are operations the adapter issues. -/
@[simp] theorem ResetWrite.issued_by_adapter (w : ResetWrite) : Agent.adapter.issues w.instr = true := by
  cases w with
  | config c => exact c.issued_by_adapter
  | stop => rfl

/-- Every reaction is an operation the adapter issues. -/
theorem Reaction.issued_by_adapter (now : Word) (x : Reaction) :
    Agent.adapter.issues (x.instr now) = true := by
  cases x with
  | config c => exact c.issued_by_adapter
  | stop => rfl
  | reset => rfl
  | start => rfl

/-- In the adapter's pseudo-operations every primitive runs in the adapter. -/
theorem PseudoOp.runsIn_of_adapter (p : PseudoOp) (i : Instr) (h : p.issuer = .adapter) :
    p.runsIn i = .adapter := by
  cases p <;> first | rfl | exact absurd h (by simp [PseudoOp.issuer])

/-- Every primitive of an expansion is one that the pseudo-operation's issuer issues. -/
theorem PseudoOp.expand_issued_by_issuer (p : PseudoOp) :
    ∀ st ∈ p.expand, ∀ i, st.instr? = some i → p.issuer.issues i = true := by
  cases p with
  | deadlineCallback now r =>
    simp [PseudoOp.expand, PseudoOp.issuer, Stage.instr?, stageActualize, stageRearm, Agent.issues]
  | deviceReset now r writes =>
    simp [PseudoOp.expand, PseudoOp.issuer, Stage.instr?, stageActualize, stageRearm, or_imp,
      forall_and]
  | configWrite now rOld rNew writes =>
    simp [PseudoOp.expand, PseudoOp.issuer, Stage.instr?, stageActualize, stageRearm, or_imp,
      forall_and]
  | reclock now rOld rNew discard =>
    cases discard <;>
      simp [PseudoOp.expand, PseudoOp.issuer, Stage.instr?, stageActualize, stageRearm]
  | _ => simp [PseudoOp.expand, PseudoOp.issuer, Stage.instr?, stageActualize, stageRearm]

/-- Every primitive of an expansion is one that the agent it runs in issues. -/
theorem PseudoOp.expand_issued_where_run (p : PseudoOp) :
    ∀ st ∈ p.expand, ∀ i, st.instr? = some i → (p.runsIn i).issues i = true := by
  intro st hst i hi
  cases hp : p.issuer with
  | adapter =>
    rw [p.runsIn_of_adapter i hp, ← hp]
    exact p.expand_issued_by_issuer st hst i hi
  | hostScheduler =>
    obtain ⟨now, r, rfl⟩ := p.issuer_eq_hostScheduler_iff.1 hp
    cases i <;> rfl
  | observer => exact absurd hp p.issuer_ne_observer

end Sys2Proof.Machine
end

