-- ==== Sys2Proof/Machine/Assembly.lean ====
section
/-! DEFINITION. The written form of an operation (30_encoding.md R62, D29). -/

namespace Sys2Proof.Machine

/-- The name of a mode (R62). -/
def modeName : Mode → String
  | .sawtooth => "Sawtooth"
  | .triangle => "Triangle"
  | .countdown => "Countdown"

/-- The name of a field (R12), or the selector of a reserved one. -/
def fieldName (sel : BitVec 4) : String :=
  match sel.toNat with
  | 0 => "count"
  | 1 => "limit"
  | 2 => "acc"
  | 3 => "last"
  | 4 => "running"
  | 5 => "mode"
  | 6 => "armed"
  | 7 => "target"
  | 8 => "status"
  | n => "sel " ++ toString n

/-- A ratio is written `num/den`, an unconfigured one `0/0` (R62). -/
def ratioText (num den : Word) : String :=
  if unconfigured num den then "0/0" else toString num.toNat ++ "/" ++ toString den.toNat

/-- One operation in the syntax of R62. The syntax "has no name for" mode tag 3; 95_test_vectors.md
writes it `SETMODE tag 3`. -/
def assembly : Instr → String
  | .actualize now num den => "ACTUALIZE " ++ toString now.toNat ++ ", " ++ ratioText num den
  | .rearm now num den => "REARM " ++ toString now.toNat ++ ", " ++ ratioText num den
  | .expire now => "EXPIRE " ++ toString now.toNat
  | .cancel => "CANCEL"
  | .start now => "START " ++ toString now.toNat
  | .stop => "STOP"
  | .reset now => "RESET " ++ toString now.toNat
  | .setlimit wdata => "SETLIMIT " ++ toString wdata.toNat
  | .setmode tag =>
    match modeOfTag tag with
    | some m => "SETMODE " ++ modeName m
    | none => "SETMODE tag 3"
  | .load wdata => "LOAD " ++ toString wdata.toNat
  | .read => "READ"
  | .rdf sel => "RDF " ++ fieldName sel

end Sys2Proof.Machine
end

