-- ==== Sys2Proof/Tests/Slice0.lean ====
section
/-! SUPPORT. Tests of the model: the checks of WellFormed, decoding of bytes written out from the spec,
one step on vectors of 95_test_vectors.md (named by their ids), and for every statement with premises a
state that meets them. -/

namespace Sys2Proof.Tests

open Sys2Proof.Machine

/-- The vectors' default state: running, unarmed, Sawtooth, all numbers 0, Ceil. -/
def base : State := { State.reset with running := true }

/-- The state an operation answers (`s` itself if it stopped, which none does). -/
def after (i : Instr) (s : State) : State :=
  match exec i s with
  | .next t => t
  | .fault _ => s
  | .refused _ => s

/-- The state a step answers. -/
def afterStep (s : State) : State :=
  match step s with
  | .next t => t
  | .fault _ => s
  | .refused _ => s

/-- A bundle with the given command byte, `now` and `wdata`. -/
def bundle (cmd : Cmd) (now wdata : Word) : Bundle := ⟨cmd, now, 1, 1, wdata⟩

/-! ## WellFormed: each check refuses an ill-formed operation -/

theorem test_wellFormed_refuses_tag_3 : (Instr.setmode 3).wellFormed = false := by decide
theorem test_wellFormed_refuses_sel_9 : (Instr.rdf 9).wellFormed = false := by decide
theorem test_wellFormed_accepts_last_of_each :
    (Instr.setmode 2).wellFormed = true ∧ (Instr.rdf 8).wellFormed = true := by decide

/-! ## Decode: one byte of each row of R53, `op` then `sel`; then R57's illegal bytes -/

theorem test_decode_actualize : decode ⟨0b0001_0000, 7, 1, 4, 9⟩ = .ok (.actualize 7 1 4) := by rfl
theorem test_decode_rearm : decode ⟨0b0010_0000, 7, 1, 4, 9⟩ = .ok (.rearm 7 1 4) := by rfl
theorem test_decode_expire : decode ⟨0b0011_0000, 7, 1, 4, 9⟩ = .ok (.expire 7) := by rfl
theorem test_decode_cancel : decode ⟨0b0100_0000, 7, 1, 4, 9⟩ = .ok .cancel := by rfl
theorem test_decode_start : decode ⟨0b0101_0000, 7, 1, 4, 9⟩ = .ok (.start 7) := by rfl
theorem test_decode_stop : decode ⟨0b0110_0000, 7, 1, 4, 9⟩ = .ok .stop := by rfl
theorem test_decode_reset : decode ⟨0b0111_0000, 7, 1, 4, 9⟩ = .ok (.reset 7) := by rfl
theorem test_decode_setlimit : decode ⟨0b1000_0000, 7, 1, 4, 9⟩ = .ok (.setlimit 9) := by rfl
theorem test_decode_setmode : decode ⟨0b1001_0010, 7, 1, 4, 9⟩ = .ok (.setmode 0b10) := by rfl
theorem test_decode_load : decode ⟨0b1010_0000, 7, 1, 4, 9⟩ = .ok (.load 9) := by rfl
theorem test_decode_read : decode ⟨0b1011_0000, 7, 1, 4, 9⟩ = .ok .read := by rfl
theorem test_decode_rdf : decode ⟨0b1100_0111, 7, 1, 4, 9⟩ = .ok (.rdf 0b0111) := by rfl
theorem test_decode_refuses_by_name :
    decode (bundle 0x00 0 0) = .error (.unassignedOp 0) ∧
    decode (bundle 0x2F 0 0) = .error (.selNotZero 2 15) ∧
    decode (bundle 0x94 0 0) = .error (.modeBitsNotZero 4) := ⟨rfl, rfl, rfl⟩
theorem test_table_word : decodeTableWord 8 0xC8 = some (.rdf 8) ∧ decodeTableWord 8 0xFF = none := by
  decide
theorem test_step_runs_table_word :
    (afterStep (State.reset.withFetchWord 8 0xA0)).out.err = .ok ∧
    (afterStep (State.reset.withFetchWord 8 0x68)).status = 0b00100 := by decide
theorem test_assembly_of_stop : assembly .stop = "STOP" := rfl

/-- R60's codes, in order. -/
theorem test_err_codes :
    [Err.ok, .timeRegression, .overflow, .illegalCommand, .spuriousExpire].map Err.code = [0, 1, 2, 3, 4] := by
  decide

/-- R156: the adapter issues every primitive but `EXPIRE`, the host's callback begins with it. -/
theorem test_agents_of_expire :
    Agent.adapter.issues (.expire 0) = false ∧ Agent.hostScheduler.issues (.expire 0) = true ∧
    Agent.adapter.issues .stop = true ∧ Agent.observer.issues (.rdf 0) = true := by decide

/-- R156: `DEADLINE_CALLBACK` is the host's, `ENABLE` the adapter's. -/
theorem test_agents_of_pseudo_operations :
    Agent.hostScheduler.issuesPseudo (.deadlineCallback 0 ⟨1, 1⟩) = true ∧
    Agent.adapter.issuesPseudo (.deadlineCallback 0 ⟨1, 1⟩) = false ∧
    Agent.adapter.issuesPseudo (.enable 0 ⟨1, 1⟩) = true ∧
    Agent.hostScheduler.issuesPseudo (.enable 0 ⟨1, 1⟩) = false := by decide

/-! ## One step: vectors of 95_test_vectors.md -/

/-- A15: four wraps, one event. -/
theorem test_actualize_A15 :
    let t := after (.actualize 35 1 1) { base with count := 7, limit := 9 }
    (t.count, t.out.event, t.out.ticks) = (2, true, 35) := by decide

/-- A26: Triangle with `E = 2^64`. -/
theorem test_actualize_A26 :
    let t := after (.actualize 5 1 1)
      { base with count := BitVec.ofNat 64 (2 ^ 64 - 2), limit := BitVec.ofNat 64 (2 ^ 63), mode := .triangle }
    (t.count, t.out.event) = (2, true) := by decide

/-- S8: the carried cycles shorten the wait. -/
theorem test_rearm_S8 :
    let t := after (.rearm 20 1 4) { base with count := 2, limit := 9, acc := 3, last := 20 }
    (t.armed, t.target) = (true, 45) := by decide

/-- S12: Triangle at `2*limit` arms the next period. -/
theorem test_rearm_S12 :
    (after (.rearm 20 1 1) { base with count := 20, limit := 10, last := 20, mode := .triangle }).target
      = 41 := by decide

/-- CN1. -/
theorem test_cancel_CN1 :
    let t := after .cancel { base with armed := true, target := 100 }
    (t.armed, t.target) = (false, 100) := by decide

/-- E2: a late expiry is legal. -/
theorem test_expire_E2 :
    let t := after (.expire 130) { base with last := 50, armed := true, target := 100 }
    (t.armed, t.out.err) = (false, .ok) := by decide

/-- E6: both errors apply, `TimeRegression` wins. -/
theorem test_expire_E6 :
    (after (.expire 110) { base with last := 120, target := 100 }).status = 0b00001 := by decide

/-- K1. -/
theorem test_start_K1 :
    let t := after (.start 25) { base with last := 10, running := false }
    (t.running, t.last) = (true, 25) := by decide

/-- K2: `last` is not moved on a running counter. -/
theorem test_start_K2 : (after (.start 25) { base with last := 10 }).last = 10 := by decide

/-- K4. -/
theorem test_stop_K4 :
    let t := after .stop { base with armed := true, target := 100 }
    (t.running, t.armed, t.target) = (false, false, 100) := by decide

/-- K6: only `count`, `acc` and `last`; the sticky bit survives. -/
theorem test_reset_K6 :
    let t := after (.reset 100)
      { base with count := 42, limit := 99, acc := 3, last := 90, armed := true, status := 0x10 }
    (t.count, t.acc, t.last) = (0, 0, 100) ∧ (t.limit, t.armed, t.status) = (99, true, 0x10) := by decide

/-- K8: the count is kept. -/
theorem test_setlimit_K8 :
    let t := after (.setlimit 40) { base with count := 60, limit := 100 }
    (t.limit, t.count) = (40, 60) := by decide

/-- K12 and K13. -/
theorem test_setmode_K12 : (after (.setmode 2) base).mode = .countdown := by decide
theorem test_setmode_K13 :
    let t := after (.setmode 3) { base with mode := .triangle }
    (t.mode, t.status) = (.triangle, 0b00100) := by decide

/-- K14: `acc` is kept. -/
theorem test_load_K14 :
    let t := after (.load 100) { base with acc := 3 }
    (t.count, t.acc) = (100, 3) := by decide

/-- Q1 and Q5: fold-back, and above the span. -/
theorem test_read_Q1 :
    (after .read { base with count := 15, limit := 10, mode := .triangle }).out.rdata = 5 := by decide
theorem test_read_Q5 :
    (after .read { base with count := 25, limit := 10, mode := .triangle }).out.rdata = 0 := by decide

/-- F8 and F9. -/
theorem test_rdf_F8 : (after (.rdf 8) { base with status := 0x11 }).out.rdata = 17 := by decide
theorem test_rdf_F9 : (after (.rdf 9) { base with status := 0x11 }).status = 0x15 := by decide

/-! ## Premises met: one witness for each statement that has premises -/

/-- A running Countdown counter with 5 of 9 ticks left and a cycle carried. -/
def down : State := { base with count := 5, limit := 9, acc := 1, mode := .countdown, last := 10 }

/-- A running Sawtooth counter. -/
def saw : State := { base with count := 7, limit := 9, acc := 1, last := 10 }

/-- A running Triangle counter. -/
def tri : State := { base with count := 15, limit := 10, acc := 1, mode := .triangle, last := 10 }

/-- A running Triangle counter at the top of its fields (vector A26b). -/
def triTop : State :=
  { base with count := BitVec.ofNat 64 (2 ^ 64 - 1), limit := BitVec.ofNat 64 (2 ^ 63), mode := .triangle }

/-- A stopped counter. -/
def stopped : State := { down with running := false }

theorem witness_DecodeReadsListedPortsOnly :
    decode ⟨0x30, 7, 1, 4, 9⟩ = .ok (.expire 7) ∧
    (Instr.expire 7).format.SameListed ⟨0x30, 7, 1, 4, 9⟩ ⟨0x30, 7, 0, 0, 0⟩ := ⟨rfl, by decide⟩

/-- A byte of each illegal range, at its edges, and the legal bytes beside them. -/
theorem witness_IllegalBytesRaiseIllegalCommand :
    (∀ w ∈ [0x00, 0x0F, 0xD0, 0xFF, 0x11, 0x1F, 0xB1, 0x93, 0x9F, 0xC9, 0xCF],
      (afterStep { base with pending := [bundle w 0 0] }).out.err = .illegalCommand) ∧
    (∀ w ∈ [0x10, 0xB0, 0x90, 0x92, 0xC0, 0xC8],
      (afterStep { base with pending := [bundle w 0 0] }).out.err ≠ .illegalCommand) := by decide

theorem witness_StepRunsDecodedOperation :
    ({ base with pending := [bundle 0xA0 0 6] } : State).pending = [bundle 0xA0 0 6] ∧
    decode (bundle 0xA0 0 6) = .ok (.load 6) := ⟨rfl, rfl⟩

theorem witness_StepRunsDecodedOperation_idle : State.reset.pending = [] := rfl

/-- Tag 3 and selector 9 raise; tag 2 and selector 8 do not. -/
theorem witness_IllFormedOperationsAreIllegal :
    exec (.setmode 3) base = .next (after (.setmode 3) base) ∧ exec (.rdf 8) base = .next (after (.rdf 8) base) ∧
    (after (.setmode 3) base).out.err = .illegalCommand ∧ (after (.rdf 9) base).out.err = .illegalCommand ∧
    (after (.setmode 2) base).out.err = .ok ∧ (after (.rdf 8) base).out.err = .ok :=
  ⟨rfl, rfl, by decide⟩

theorem witness_ActualizeStoppedMovesLastOnly : stopped.last ≤ 10 ∧ stopped.running = false := by decide

theorem witness_ActualizeUnconfiguredKeepsCycles :
    (down.last ≤ 12 ∧ down.running = true ∧ ((0 : Word) = 0 ∨ (7 : Word) = 0) ∧
      down.acc.toNat + ((12 : Word).toNat - down.last.toNat) ≤ MAX64) ∧
    ((7 : Word) = 0 ∨ (0 : Word) = 0) := by decide

/-- Below the boundary, at it, and at `count == 0`. -/
theorem witness_ActualizeCountdownCountsDown :
    (down.last ≤ 13 ∧ down.running = true ∧ Configured 1 1 ∧ down.mode = .countdown ∧
      down.acc.toNat + ((13 : Word).toNat - down.last.toNat) ≤ MAX64) ∧
    (after (.actualize 13 1 1) down).out.event = false ∧ (after (.actualize 14 1 1) down).out.event = true ∧
    (after (.actualize 10 1 2) { down with count := 0 }).out.event = true := by decide

/-- Reaching the limit, and passing it. -/
theorem witness_ActualizeSawtoothWraps :
    (saw.last ≤ 11 ∧ saw.running = true ∧ Configured 1 1 ∧ saw.mode = .sawtooth ∧ saw.limit ≠ 0 ∧
      saw.acc.toNat + ((11 : Word).toNat - saw.last.toNat) ≤ MAX64) ∧
    (after (.actualize 11 1 1) saw).out.event = false ∧
    (after (.actualize 12 1 1) saw).out.event = true := by decide

/-- Reaching `2*limit`, and passing it. -/
theorem witness_ActualizeTriangleWraps :
    (tri.last ≤ 14 ∧ tri.running = true ∧ Configured 1 1 ∧ tri.mode = .triangle ∧ tri.limit ≠ 0 ∧
      tri.acc.toNat + ((15 : Word).toNat - tri.last.toNat) ≤ MAX64) ∧
    (after (.actualize 14 1 1) tri).count = 20 ∧ (after (.actualize 14 1 1) tri).out.event = false ∧
    (after (.actualize 15 1 1) tri).out.event = true := by decide

/-- Both modes, without and with ticks, from a count above 0 (vectors A18, A19). -/
theorem witness_ActualizeZeroLimitFiresOnTicks :
    (base.last ≤ 0 ∧ base.running = true ∧ Configured 1 1 ∧ base.mode ≠ .countdown ∧ base.limit = 0 ∧
      base.acc.toNat + ((0 : Word).toNat - base.last.toNat) ≤ MAX64) ∧
    (after (.actualize 0 1 1) { base with count := 3 }).out.event = false ∧
    (after (.actualize 1 1 1) { base with count := 3, mode := .triangle }).out.event = true := by decide

/-- Vector X9 under both roundings. -/
theorem witness_ConvertRoundsAsParameterSays :
    convert .ceil 3 3 5 = ⟨1, 1⟩ ∧ convert .floor 3 3 5 = ⟨1, 2⟩ := by decide

theorem witness_CeilKeepsRemainderBelowTick :
    base.remRound = .ceil ∧ base.running = true ∧ Configured 3 5 ∧
    exec (.actualize 3 3 5) base = .next (after (.actualize 3 3 5) base) ∧
    (after (.actualize 3 3 5) base).out.err = .ok := ⟨rfl, rfl, by decide, rfl, by decide⟩

theorem witness_RepeatedActualizeIsQuiet :
    saw.remRound = .ceil ∧ saw.running = true ∧ Configured 3 5 ∧
    exec (.actualize 13 3 5) saw = .next (after (.actualize 13 3 5) saw) ∧
    (after (.actualize 13 3 5) saw).out.err = .ok ∧
    ¬ ((after (.actualize 13 3 5) saw).mode = .countdown ∧ (after (.actualize 13 3 5) saw).count = 0) :=
  ⟨rfl, rfl, by decide, rfl, by decide, by decide⟩

/-- From inside the span, and from above it (vector A23). -/
theorem witness_ActualizeKeepsAndRestoresSpan :
    WithinSpan saw ∧ exec (.actualize 11 1 1) saw = .next (after (.actualize 11 1 1) saw) ∧
    (let s : State := { base with count := 60, limit := 40, last := 60 }
     ¬ WithinSpan s ∧ s.limit ≠ 0 ∧ s.mode ≠ .countdown ∧ (after (.actualize 60 1 1) s).out.err = .ok) :=
  ⟨by decide, rfl, by decide⟩

/-- `1/4` and `2/8` (vectors X11, X12). -/
theorem witness_RatioNeedNotBeReduced :
    (2 : Word).toNat = 2 * (1 : Word).toNat ∧ (8 : Word).toNat = 2 * (4 : Word).toNat := by decide

/-- XS1: ratio 1/4 in single cycles. -/
theorem witness_ExactRatioNeverDrifts :
    base.running = true ∧ base.acc = 0 ∧ Configured 1 4 ∧ ExactRatio 1 4 ∧
    (ticksAlong 1 4 [1, 2, 3, 4, 8] base).map (fun p => p.1) = some 2 := by decide

theorem witness_CeilNeverCreatesTicks :
    base.remRound = .ceil ∧ base.running = true ∧ base.acc = 0 ∧ Configured 3 5 ∧
    (ticksAlong 3 5 [2, 4, 6] base).map (fun p => p.1) = some 3 := by decide

/-- XS5: Floor at ratio 3/5. -/
theorem witness_FloorNeverLosesCycles :
    let s : State := { base with remRound := .floor, limit := 1000 }
    s.remRound = .floor ∧ s.running = true ∧ Configured 3 5 ∧
    (ticksAlong 3 5 [1, 2, 3, 4] s).map (fun p => p.1) = some 3 := by decide

/-- An operation with an event, and one without. -/
theorem witness_EventExactlyWhenBoundaryCrossed :
    exec (.actualize 12 1 1) saw = .next (after (.actualize 12 1 1) saw) ∧
    (after (.actualize 12 1 1) saw).out.event = true ∧
    exec .read saw = .next (after .read saw) ∧ (after .read saw).out.event = false :=
  ⟨rfl, by decide, rfl, by decide⟩

theorem witness_RaiseChangesOneStickyBit :
    exec (.expire 10) down = .next (after (.expire 10) down) ∧ (after (.expire 10) down).out.err ≠ .ok :=
  ⟨rfl, by decide⟩

theorem witness_TimeRegressionRejected : (9 : Word) < down.last := by decide

/-- Vector A25. -/
theorem witness_ActualizeOverflowOfCycles :
    let s : State := { base with acc := BitVec.ofNat 64 (2 ^ 64 - 1) }
    s.last ≤ 1 ∧ s.running = true ∧ MAX64 < s.acc.toNat + ((1 : Word).toNat - s.last.toNat) := by decide

/-- Vector A26b raises; one tick fewer does not. -/
theorem witness_ActualizeOverflowOfCount :
    (triTop.last ≤ 1 ∧ triTop.running = true ∧ Configured 1 1 ∧
      triTop.acc.toNat + ((1 : Word).toNat - triTop.last.toNat) ≤ MAX64) ∧
    (after (.actualize 1 1 1) triTop).out.err = .overflow ∧
    (after (.actualize 0 1 1) triTop).out.err = .ok := by decide

theorem witness_StallLoggedOnUnconfiguredRatio :
    exec (.rearm 10 0 1) saw = .next (after (.rearm 10 0 1) saw) ∧ saw.status.getLsbD 4 = false ∧
    (after (.rearm 10 0 1) saw).status.getLsbD 4 = true := ⟨rfl, by decide, by decide⟩

theorem witness_RearmCancels :
    (stopped.last ≤ 10 ∧ stopped.running = false) ∧
    (down.last ≤ 10 ∧ down.running = true ∧ ((0 : Word) = 0 ∨ (1 : Word) = 0)) := by decide

/-- Vectors S18 and S17: the largest deadline, and one more; and the clamp of S14b. -/
theorem witness_RearmArmsAtDeadline :
    let near : Word := BitVec.ofNat 64 (2 ^ 64 - 10)
    let s : State := { base with limit := 9, last := near }
    (s.last ≤ near ∧ s.running = true ∧ Configured 1 1) ∧
    (9 * (1 : Word).toNat ≤ 9 * (1 : Word).toNat ∧ 9 * 1 < 9 * (1 : Word).toNat + (1 : Word).toNat) ∧
    (after (.rearm near 1 1) s).target = BitVec.ofNat 64 (2 ^ 64 - 1) ∧
    (after (.rearm near 1 1) { s with limit := 10 }).out.err = .overflow ∧
    (after (.rearm 50 1 1) { base with limit := 10, acc := 100, last := 50 }).target = 51 := by decide

/-- 7 ticks at 1/4 with 3 cycles carried (vector S8), and enough cycles carried already (S14b). -/
theorem witness_WaitIsLeastSufficient : waitCycles 7 1 4 3 = 25 ∧ waitCycles 10 1 1 100 = 1 := by decide

theorem witness_RearmIdempotent : exec (.rearm 10 1 1) saw = .next (after (.rearm 10 1 1) saw) := rfl

theorem witness_CancelDisarms : down.armed = false := rfl

/-- On time, and late. -/
theorem witness_ExpireConsumesDueDeadline :
    let s : State := { down with armed := true, target := 100 }
    s.last ≤ 100 ∧ s.armed = true ∧ s.target ≤ 100 ∧ s.target ≤ 130 := by decide

/-- Not armed, and one cycle early. -/
theorem witness_SpuriousExpireRaised :
    (down.last ≤ 10 ∧ down.armed = false) ∧
    (let s : State := { down with armed := true, target := 100 }
     s.last ≤ 99 ∧ (99 : Word) < s.target) := by decide

/-- At the boundary, and one cycle before it. -/
theorem witness_CountdownDeadlineIsBoundary :
    (down.mode = .countdown ∧ down.running = true ∧ down.count ≠ 0 ∧ Configured 1 4 ∧
      RemainderBelowTick 1 4 down) ∧
    exec (.rearm down.last 1 4) down = .next (after (.rearm down.last 1 4) down) ∧
    (after (.rearm down.last 1 4) down).out.err = .ok ∧
    (after (.rearm down.last 1 4) down).target = 29 ∧ down.last ≤ 28 ∧
    down.acc.toNat + ((29 : Word).toNat - down.last.toNat) ≤ MAX64 :=
  ⟨by decide, rfl, by decide, by decide, by decide, by decide⟩

theorem witness_UpwardDeadlineIsOneTickEarly :
    (saw.mode ≠ .countdown ∧ saw.running = true ∧ saw.count.toNat < effectiveLimit saw.mode saw.limit.toNat ∧
      effectiveLimit saw.mode saw.limit.toNat ≤ MAX64 ∧ Configured 1 4 ∧ (1 : Word) ≤ 4 ∧
      RemainderBelowTick 1 4 saw) ∧
    exec (.rearm saw.last 1 4) saw = .next (after (.rearm saw.last 1 4) saw) ∧
    (after (.rearm saw.last 1 4) saw).out.err = .ok ∧
    saw.acc.toNat + ((after (.rearm saw.last 1 4) saw).target.toNat - saw.last.toNat) ≤ MAX64 :=
  ⟨by decide, rfl, by decide, by decide⟩

/-- A deadline replaced: the host cancels and arms. -/
theorem witness_HostQueueMirrorsDeadline :
    let s : State := { saw with armed := true, target := 99 }
    exec (.rearm 10 1 1) s = .next (after (.rearm 10 1 1) s) ∧
    hostCalls (.rearm 10 1 1) s (after (.rearm 10 1 1) s) = [.cancel, .arm 11] := ⟨rfl, by decide⟩

theorem witness_StartRunsStoppedCounter :
    (stopped.last ≤ 10 ∧ stopped.running = false) ∧ down.running = true := by decide

theorem witness_ResetHasThreeEffects : down.last ≤ 10 := by decide

/-- Each arm of the visible value, at its edges: `limit`, `2*limit` and above. -/
theorem witness_ReadReturnsVisibleValue :
    (tri.mode = .triangle ∧ tri.limit < tri.count ∧ tri.count.toNat ≤ 2 * tri.limit.toNat) ∧
    (after .read { tri with count := 10 }).out.rdata = 10 ∧
    (after .read { tri with count := 20 }).out.rdata = 0 ∧
    2 * ({ tri with count := 21 } : State).limit.toNat < ({ tri with count := 21 } : State).count.toNat ∧
    saw.mode ≠ .triangle := by decide

theorem witness_TriangleReadsFoldAtLimit :
    tri.mode = .triangle ∧ exec .read tri = .next (after .read tri) ∧
    5 ≤ tri.limit.toNat ∧ tri.count.toNat = tri.limit.toNat + 5 := ⟨rfl, rfl, by decide, by decide⟩

theorem witness_RdfReturnsSelectedField : 8 < (9 : BitVec 4).toNat := by decide

/-- Every field that an operation can write is written by one. -/
theorem witness_OnlyListedOperationsWriteField :
    exec (.actualize 12 1 1) saw = .next (after (.actualize 12 1 1) saw) ∧
    (after (.actualize 12 1 1) saw).count ≠ saw.count ∧ (after (.actualize 12 1 1) saw).acc ≠ saw.acc ∧
    (after (.actualize 12 1 1) saw).last ≠ saw.last ∧ (after (.setlimit 3) saw).limit ≠ saw.limit ∧
    (after .stop saw).running ≠ saw.running ∧ (after (.setmode 1) saw).mode ≠ saw.mode ∧
    (after (.rearm 10 1 1) saw).armed ≠ saw.armed ∧ (after (.rearm 10 1 1) saw).target ≠ saw.target :=
  ⟨rfl, by decide, by decide, by decide, by decide, by decide, by decide, by decide, by decide⟩

/-- A step that keeps a set bit while it sets another. -/
theorem witness_StatusBitsAreSticky :
    let s : State := { saw with status := 0b10000, pending := [bundle 0x00 0 0] }
    step s = .next (afterStep s) ∧ s.status.getLsbD 4 = true ∧ (afterStep s).status = 0b10100 :=
  ⟨rfl, by decide, by decide⟩

/-- A step that moves `last`. -/
theorem witness_LastNeverMovesBack :
    let s : State := { saw with pending := [bundle 0x10 12 0] }
    step s = .next (afterStep s) ∧ (afterStep s).last = 12 := ⟨rfl, by decide⟩

/-- A step that arms. -/
theorem witness_ArmedOnlyWhileRunning :
    let s : State := { saw with pending := [bundle 0x20 10 0] }
    ArmedOnlyRunning s ∧ step s = .next (afterStep s) ∧ (afterStep s).armed = true :=
  ⟨by decide, rfl, by decide⟩

theorem witness_ResultsAndQueueAreNotRead : exec .read saw = .next (after .read saw) := rfl

/-- Two instances that both have something to do. -/
theorem witness_InstancesCommute :
    let b : Board := ⟨[{ saw with pending := [bundle 0x60 0 0] }, { down with pending := [bundle 0xA0 0 3] }]⟩
    (0 : Nat) ≠ 1 ∧ b.stepAt 0 ≠ b ∧ b.stepAt 1 ≠ b := by decide

/-- A callback that reports an event and is answered by a reload. -/
theorem witness_SequenceEndsAtItsTime :
    let r := (PseudoOp.deadlineCallback 20 ⟨1, 1⟩).run [.config (.load 9)]
      { down with armed := true, target := 15 }
    r.ended = false ∧ r.state.target = 29 := by decide

theorem witness_EnableStartsAndArms :
    stopped.last ≤ 12 ∧ stopped.running = false ∧ Configured 1 4 ∧
    (12 : Word).toNat + waitCycles (ticksToArm stopped.mode stopped.limit.toNat stopped.count.toNat)
      (1 : Word).toNat (4 : Word).toNat stopped.acc.toNat ≤ MAX64 := by decide

theorem witness_DisableStopsIdempotently :
    ((PseudoOp.disable 20 ⟨1, 1⟩).run [.reset, .start] down).ended = false := by decide

theorem witness_CallbackDeliversCountdownEvent :
    let s : State := { down with armed := true, target := 14 }
    s.mode = .countdown ∧ s.running = true ∧ Configured 1 1 ∧ hostMayExpire 14 s = true ∧ s.last ≤ 14 ∧
    s.acc.toNat + ((14 : Word).toNat - s.last.toNat) ≤ MAX64 ∧
    s.count.toNat ≤ (s.acc.toNat + ((14 : Word).toNat - s.last.toNat)) * (1 : Word).toNat / (1 : Word).toNat ∧
    (14 : Word).toNat + waitCycles s.limit.toNat (1 : Word).toNat (1 : Word).toNat
      (convert s.remRound (s.acc.toNat + ((14 : Word).toNat - s.last.toNat)) (1 : Word).toNat
        (1 : Word).toNat).acc ≤ MAX64 := by decide

/-- Creation at `T0 = 10` with open values of every kind; the sequence of R169 with a load. -/
theorem witness_StartUpIndependentOfOpenValues :
    let c : Creation := ⟨10, 7, .triangle, 99, .floor⟩
    c.t0 ≤ 10 ∧ Configured 1 1 ∧
    (10 : Word).toNat + waitCycles (ticksToArm .countdown (100 : Word).toNat ((some 100).getD (0 : Word)).toNat)
      (1 : Word).toNat (1 : Word).toNat 0 ≤ MAX64 ∧
    (runInstrs (startUp .countdown 100 (some 100) 10 ⟨1, 1⟩) (State.created c)).state.target = 110 := by decide

end Sys2Proof.Tests
end

/-! # What an operation can do

`Completes` lists, once for the whole instruction set, every way an operation can complete; an operation
that answers either does one of these or raises (`exec_next_cases`). The facts about all operations split
on this relation. -/

section

namespace Sys2Proof.Machine

/-- The conversion of a running, configured `ACTUALIZE` (R71, R76). -/
abbrev conversion (now num den : Word) (s : State) : Converted :=
  convert s.remRound (cyclesAt now s) num.toNat den.toNat

/-- The count that conversion advances to, and its event (R78 to R81). -/
abbrev advanced (now num den : Word) (s : State) : Advanced :=
  advance s.mode s.limit.toNat s.count.toNat (conversion now num den s).ticks

/-- The host time `REARM` arms at on a running counter with a configured ratio (R93 to R95). -/
abbrev deadline (now num den : Word) (s : State) : Nat :=
  now.toNat + waitCycles (ticksToArm s.mode s.limit.toNat s.count.toNat) num.toNat den.toNat s.acc.toNat

/-- `t` is `s` after a raise (R146). -/
def Raises (s t : State) : Prop := ∃ e : Err, e ≠ .ok ∧ t = raised s e.statusBit e

/-- Every way an operation can complete: its guards, and all it writes. -/
inductive Completes (s : State) : Instr → State → Prop
  | actualizeStopped {now num den : Word} (hlast : s.last ≤ now) (hrun : s.running = false) :
      Completes s (.actualize now num den) { s with last := now, out := .plain }
  | actualizeUnconfigured {now num den : Word} (hlast : s.last ≤ now) (hrun : s.running = true)
      (hfit : cyclesAt now s ≤ MAX64) (hratio : unconfigured num den = true) :
      Completes s (.actualize now num den)
        { s with last := now, acc := BitVec.ofNat 64 (cyclesAt now s)
                 status := s.status ||| stallLogged, out := .plain }
  | actualizeConverted {now num den : Word} (hlast : s.last ≤ now) (hrun : s.running = true)
      (hfit : cyclesAt now s ≤ MAX64) (hratio : unconfigured num den = false)
      (hcount : (advanced now num den s).count ≤ MAX64) :
      Completes s (.actualize now num den)
        { s with last := now, acc := BitVec.ofNat 64 (conversion now num den s).acc
                 count := BitVec.ofNat 64 (advanced now num den s).count
                 out := ⟨.ok, (advanced now num den s).event,
                   BitVec.ofNat 128 (conversion now num den s).ticks, 0⟩ }
  | rearmStopped {now num den : Word} (hlast : s.last ≤ now) (hrun : s.running = false) :
      Completes s (.rearm now num den) { s with armed := false, out := .plain }
  | rearmUnconfigured {now num den : Word} (hlast : s.last ≤ now) (hrun : s.running = true)
      (hratio : unconfigured num den = true) :
      Completes s (.rearm now num den)
        { s with armed := false, status := s.status ||| stallLogged, out := .plain }
  | rearmArmed {now num den : Word} (hlast : s.last ≤ now) (hrun : s.running = true)
      (hratio : unconfigured num den = false) (hfit : deadline now num den s ≤ MAX64) :
      Completes s (.rearm now num den)
        { s with armed := true, target := BitVec.ofNat 64 (deadline now num den s), out := .plain }
  | expire {now : Word} (hlast : s.last ≤ now) (harmed : s.armed = true) (hdue : s.target ≤ now) :
      Completes s (.expire now) { s with armed := false, out := .plain }
  | cancel : Completes s .cancel { s with armed := false, out := .plain }
  | startStopped {now : Word} (hlast : s.last ≤ now) (hrun : s.running = false) :
      Completes s (.start now) { s with running := true, last := now, out := .plain }
  | startRunning {now : Word} (hlast : s.last ≤ now) (hrun : s.running = true) :
      Completes s (.start now) { s with out := .plain }
  | stop : Completes s .stop { s with running := false, armed := false, out := .plain }
  | reset {now : Word} (hlast : s.last ≤ now) :
      Completes s (.reset now) { s with count := 0, acc := 0, last := now, out := .plain }
  | setlimit (v : Word) : Completes s (.setlimit v) { s with limit := v, out := .plain }
  | setmode {tag : BitVec 2} {m : Mode} (htag : modeOfTag tag = some m) :
      Completes s (.setmode tag) { s with mode := m, out := .plain }
  | load (v : Word) : Completes s (.load v) { s with count := v, out := .plain }
  | read : Completes s .read { s with out := ⟨.ok, false, 0, visible s.count s.limit s.mode⟩ }
  | rdf {sel : BitVec 4} {v : Word} (hsel : readField s sel = some v) :
      Completes s (.rdf sel) { s with out := ⟨.ok, false, 0, v⟩ }

variable {s t : State} {i : Instr} {now num den : Word}

theorem raises_of_raise {e : Err} (he : e ≠ .ok) (h : raise e s = .next t) : Raises s t :=
  ⟨e, he, (raise_next_iff e s t).1 h⟩

theorem Raises.err_ne_ok (h : Raises s t) : t.out.err ≠ .ok := by
  obtain ⟨e, he, rfl⟩ := h
  exact he

theorem execActualize_completes_or_raises (h : execActualize now num den s = .next t) :
    Completes s (.actualize now num den) t ∨ Raises s t := by
  obtain ⟨-, h⟩ | ⟨hlast, hrun, rfl⟩ | ⟨-, -, -, h⟩ | ⟨hlast, hrun, hfit, hratio, rfl⟩ |
    ⟨hlast, hrun, hfit, hratio, h⟩ := execActualize_next_cases h
  · exact .inr (raises_of_raise Err.noConfusion h)
  · exact .inl (.actualizeStopped (BitVec.not_lt.1 hlast) hrun)
  · exact .inr (raises_of_raise Err.noConfusion h)
  · exact .inl (.actualizeUnconfigured (BitVec.not_lt.1 hlast) hrun hfit hratio)
  · obtain ⟨-, rfl⟩ | ⟨hcount, rfl⟩ := storeAdvance_next_cases h
    · exact .inr ⟨.overflow, Err.noConfusion, rfl⟩
    · exact .inl (.actualizeConverted (BitVec.not_lt.1 hlast) hrun hfit hratio hcount)

theorem execRearm_completes_or_raises (h : execRearm now num den s = .next t) :
    Completes s (.rearm now num den) t ∨ Raises s t := by
  obtain ⟨-, h⟩ | ⟨hlast, hrun, rfl⟩ | ⟨hlast, hrun, hratio, rfl⟩ | ⟨hlast, hrun, hratio, h⟩ :=
    execRearm_next_cases h
  · exact .inr (raises_of_raise Err.noConfusion h)
  · exact .inl (.rearmStopped (BitVec.not_lt.1 hlast) hrun)
  · exact .inl (.rearmUnconfigured (BitVec.not_lt.1 hlast) hrun hratio)
  · obtain ⟨-, rfl⟩ | ⟨hfit, rfl⟩ := armAt_next_cases h
    · exact .inr ⟨.overflow, Err.noConfusion, rfl⟩
    · exact .inl (.rearmArmed (BitVec.not_lt.1 hlast) hrun hratio hfit)

/-- An operation that answers completes in one of the listed ways or raises. -/
theorem exec_next_cases (h : exec i s = .next t) : Completes s i t ∨ Raises s t := by
  cases i with
  | actualize now num den => exact execActualize_completes_or_raises h
  | rearm now num den => exact execRearm_completes_or_raises h
  | expire now =>
    obtain ⟨-, h⟩ | ⟨-, -, h⟩ | ⟨hlast, harmed, hdue, rfl⟩ := execExpire_next_cases h
    · exact .inr (raises_of_raise Err.noConfusion h)
    · exact .inr (raises_of_raise Err.noConfusion h)
    · exact .inl (.expire (BitVec.not_lt.1 hlast) harmed (BitVec.not_lt.1 hdue))
  | cancel => cases (completeOk_next_iff _ _).1 h; exact .inl .cancel
  | start now =>
    obtain ⟨-, h⟩ | ⟨hlast, hrun, rfl⟩ | ⟨hlast, hrun, rfl⟩ := execStart_next_cases h
    · exact .inr (raises_of_raise Err.noConfusion h)
    · exact .inl (.startStopped (BitVec.not_lt.1 hlast) hrun)
    · exact .inl (.startRunning (BitVec.not_lt.1 hlast) hrun)
  | stop => cases (completeOk_next_iff _ _).1 h; exact .inl .stop
  | reset now =>
    obtain ⟨-, h⟩ | ⟨hlast, rfl⟩ := execReset_next_cases h
    · exact .inr (raises_of_raise Err.noConfusion h)
    · exact .inl (.reset (BitVec.not_lt.1 hlast))
  | setlimit v => cases (completeOk_next_iff _ _).1 h; exact .inl (.setlimit v)
  | setmode tag =>
    obtain ⟨m, htag, rfl⟩ | ⟨-, h⟩ := execSetmode_next_cases h
    · exact .inl (.setmode htag)
    · exact .inr (raises_of_raise Err.noConfusion h)
  | load v => cases (completeOk_next_iff _ _).1 h; exact .inl (.load v)
  | read => cases (complete_next_iff _ _ _).1 h; exact .inl .read
  | rdf sel =>
    obtain ⟨v, hsel, rfl⟩ | ⟨-, h⟩ := execRdf_next_cases h
    · exact .inl (.rdf hsel)
    · exact .inr (raises_of_raise Err.noConfusion h)

/-- An operation that answers `OK` completed. -/
theorem completes_of_err_ok (h : exec i s = .next t) (hok : t.out.err = .ok) : Completes s i t :=
  (exec_next_cases h).resolve_right (fun hr => hr.err_ne_ok hok)

/-- The conversion's outcome is the only one a running, configured `ACTUALIZE` can complete with. -/
theorem actualize_converted (hrun : s.running = true) (hratio : Configured num den)
    (h : exec (.actualize now num den) s = .next t) (hok : t.out.err = .ok) :
    cyclesAt now s ≤ MAX64 ∧ (advanced now num den s).count ≤ MAX64 ∧
      t = { s with last := now, acc := BitVec.ofNat 64 (conversion now num den s).acc
                   count := BitVec.ofNat 64 (advanced now num den s).count
                   out := ⟨.ok, (advanced now num den s).event,
                     BitVec.ofNat 128 (conversion now num den s).ticks, 0⟩ } := by
  have hconf : unconfigured num den = false := (unconfigured_eq_false_iff num den).2 hratio
  cases completes_of_err_ok h hok with
  | actualizeStopped _ hstop => simp [hrun] at hstop
  | actualizeUnconfigured _ _ _ hun => simp [hconf] at hun
  | actualizeConverted _ _ hfit _ hcount => exact ⟨hfit, hcount, rfl⟩

/-- A number up to `MAX64` is stored whole. -/
theorem toNat_ofNat_of_le_MAX64 {n : Nat} (h : n ≤ MAX64) : (BitVec.ofNat 64 n).toNat = n := by
  rw [BitVec.toNat_ofNat, Nat.mod_eq_of_lt (Nat.lt_of_le_pred (by decide) h)]

theorem toNat_pos_of_ne_zero {w : Word} (h : w ≠ 0) : 0 < w.toNat :=
  Nat.pos_of_ne_zero fun hzero => h (BitVec.eq_of_toNat_eq hzero)

end Sys2Proof.Machine

end

/-! # `status` and the writers of each field -/

section

namespace Sys2Proof.Machine

variable {s t : State} {i : Instr}

/-- An operation only sets bits of `status` (R22). -/
theorem exec_status_eq_or (h : exec i s = .next t) : ∃ bits, t.status = s.status ||| bits := by
  obtain hc | ⟨e, -, rfl⟩ := exec_next_cases h
  · cases hc with
    | actualizeUnconfigured => exact ⟨stallLogged, rfl⟩
    | rearmUnconfigured => exact ⟨stallLogged, rfl⟩
    | _ => exact ⟨0, (BitVec.or_zero).symm⟩
  · exact ⟨e.statusBit, rfl⟩

/-- A step only sets bits of `status` (R22). -/
theorem step_status_eq_or (h : step s = .next t) : ∃ bits, t.status = s.status ||| bits := by
  obtain ⟨-, rfl⟩ | ⟨b, rest, i, -, -, h⟩ | ⟨b, rest, e, -, -, h⟩ := step_next_cases h
  · exact ⟨0, (BitVec.or_zero).symm⟩
  · exact exec_status_eq_or (s := { s with pending := rest }) h
  · cases (raise_next_iff _ _ _).1 h
    exact ⟨Err.illegalCommand.statusBit, rfl⟩

/-- Settles O49: the next `status` is the old one with bits set. -/
theorem statusBitsAreSticky : Obligations.StatusBitsAreSticky := by
  intro s t h
  obtain ⟨bits, hbits⟩ := step_status_eq_or h
  rw [hbits]
  exact ⟨fun k hk => State.log_keeps_bit s bits k hk,
    fun hne hzero => hne (BitVec.or_eq_zero_iff.1 hzero).1⟩

/-- Settles O48: a raise writes no field but `status`, and the writes of each completing operation are
those its constructor of `Completes` lists. -/
theorem onlyListedOperationsWriteField : Obligations.OnlyListedOperationsWriteField := by
  intro i s t h
  obtain hc | ⟨e, -, rfl⟩ := exec_next_cases h
  · cases hc <;> simp
  · simp [raised]

/-- Settles O52. -/
theorem createdStoppedAndUnarmed : Obligations.CreatedStoppedAndUnarmed := by
  intro c
  have hspan : WithinSpan (State.created c) := Nat.zero_le _
  have harmed : ArmedOnlyRunning (State.created c) := Bool.noConfusion
  exact ⟨rfl, rfl, rfl, rfl, rfl, rfl, rfl, rfl, harmed, hspan, rfl⟩

end Sys2Proof.Machine

end

/-! # The remainder relation (R24) -/

section

namespace Sys2Proof.Machine

/-- R72 item 2: what the conversion under Ceil carries on is worth less than one tick. -/
theorem convert_ceil_acc_mul_lt (a : Nat) {num den : Nat} (hn : 0 < num) (hd : 0 < den) :
    (convert .ceil a num den).acc * num < den := by
  have htaken : a * num / den * den ≤ ceilDiv (a * num / den * den) num * num := le_ceilDiv_mul hn _
  have hmod : a * num % den < den := Nat.mod_lt _ hd
  have hdiv : a * num / den * den + a * num % den = a * num := Nat.div_add_mod' _ _
  change (a - ceilDiv (a * num / den * den) num) * num < den
  rw [Nat.sub_mul]
  omega

/-- Settles O15. -/
theorem ceilKeepsRemainderBelowTick : Obligations.CeilKeepsRemainderBelowTick := by
  intro s t now num den hceil hrun hratio h hok
  obtain ⟨hfit, -, rfl⟩ := actualize_converted hrun hratio h hok
  have hacc : (conversion now num den s).acc ≤ MAX64 := (convert_acc_le _ _ _ _).trans hfit
  change (BitVec.ofNat 64 (conversion now num den s).acc).toNat * num.toNat < den.toNat
  rw [toNat_ofNat_of_le_MAX64 hacc, conversion, hceil]
  exact convert_ceil_acc_mul_lt _ (toNat_pos_of_ne_zero hratio.1) (toNat_pos_of_ne_zero hratio.2)

/-- A running Sawtooth counter whose `REM_ROUND` is Floor. -/
def floorCounter : State := { State.created ⟨0, 9, .sawtooth, 0, .floor⟩ with running := true }

/-- Settles O16: 3 cycles at 3/5 yield one tick, and Floor takes one cycle for it; the two cycles left
are worth 6/5 of a tick. -/
theorem floorCanLeaveWholeTick : Obligations.FloorCanLeaveWholeTick :=
  ⟨floorCounter, { floorCounter with count := 1, acc := 2, last := 3, out := ⟨.ok, false, 1, 0⟩ }, 3, 3, 5,
    rfl, rfl, by decide, rfl, rfl, by decide⟩

end Sys2Proof.Machine

end

/-! # The span relation (R23, R85) -/

section

namespace Sys2Proof.Machine

variable {mode : Mode}

/-- Counting up ends inside the span, from any count (R85). -/
theorem advance_count_le_of_ne_countdown (hmode : mode ≠ .countdown) (limit count ticks : Nat) :
    (advance mode limit count ticks).count ≤ effectiveLimit mode limit := by
  cases mode with
  | sawtooth => exact advanceUp_count_le _ _ _
  | triangle => exact advanceUp_count_le _ _ _
  | countdown => exact absurd rfl hmode

/-- Every mode keeps a count inside the span (R23). -/
theorem advance_count_le {limit count : Nat} (h : count ≤ effectiveLimit mode limit) (ticks : Nat) :
    (advance mode limit count ticks).count ≤ effectiveLimit mode limit := by
  cases mode with
  | countdown => exact (advanceDown_count_le _ _).trans h
  | sawtooth => exact advance_count_le_of_ne_countdown Mode.noConfusion _ _ _
  | triangle => exact advance_count_le_of_ne_countdown Mode.noConfusion _ _ _

/-- Counting up from outside the span crosses a boundary (R85). -/
theorem advance_event_of_lt_count (hmode : mode ≠ .countdown) {limit count : Nat} (hlimit : limit ≠ 0)
    (h : effectiveLimit mode limit < count) (ticks : Nat) :
    (advance mode limit count ticks).event = true := by
  cases mode with
  | sawtooth => exact (advanceUp_event_iff _ _ _).2 (.inr ⟨hlimit, Nat.lt_add_right ticks h⟩)
  | triangle =>
    have hspan : 2 * limit ≠ 0 := Nat.mul_ne_zero two_ne_zero hlimit
    exact (advanceUp_event_iff _ _ _).2 (.inr ⟨hspan, Nat.lt_add_right ticks h⟩)
  | countdown => exact absurd rfl hmode

variable {s t : State} {now num den : Word}

theorem actualize_keeps_withinSpan (h : exec (.actualize now num den) s = .next t)
    (hspan : WithinSpan s) : WithinSpan t := by
  obtain hc | ⟨e, -, rfl⟩ := exec_next_cases h
  · cases hc with
    | actualizeStopped => exact hspan
    | actualizeUnconfigured => exact hspan
    | actualizeConverted _ _ _ _ hcount =>
      exact (toNat_ofNat_of_le_MAX64 hcount).trans_le (advance_count_le hspan _)
  · exact hspan

/-- Settles O18. -/
theorem actualizeKeepsAndRestoresSpan : Obligations.ActualizeKeepsAndRestoresSpan := by
  intro s t now num den h
  refine ⟨actualize_keeps_withinSpan h, fun hmode hrun hratio hok => ?_⟩
  obtain ⟨-, hcount, rfl⟩ := actualize_converted hrun hratio h hok
  constructor
  · exact (toNat_ofNat_of_le_MAX64 hcount).trans_le (advance_count_le_of_ne_countdown hmode _ _ _)
  · intro hout hlimit
    have hlimit' : s.limit.toNat ≠ 0 := (toNat_pos_of_ne_zero hlimit).ne'
    exact advance_event_of_lt_count hmode hlimit' (Nat.lt_of_not_le hout) _

end Sys2Proof.Machine

end

/-! # A common factor of the ratio (R11) -/

section

namespace Sys2Proof.Machine

variable {k : Nat}

theorem ceilDiv_mul_mul_left (hk : 0 < k) (a b : Nat) : ceilDiv (k * a) (k * b) = ceilDiv a b := by
  obtain rfl | hb := Nat.eq_zero_or_pos b
  · simp [ceilDiv]
  · refine eq_of_forall_ge_iff fun c => ?_
    rw [ceilDiv_le_iff (Nat.mul_pos hk hb), ceilDiv_le_iff hb, Nat.mul_left_comm c k b]
    exact Nat.mul_le_mul_left_iff hk

theorem divRound_mul_mul_left (hk : 0 < k) (r : Rounding) (a b : Nat) :
    divRound r (k * a) (k * b) = divRound r a b := by
  cases r with
  | ceil => exact ceilDiv_mul_mul_left hk a b
  | floor => exact Nat.mul_div_mul_left a b hk

theorem convert_mul_mul_left (hk : 0 < k) (r : Rounding) (a num den : Nat) :
    convert r a (k * num) (k * den) = convert r a num den := by
  have hticks : a * (k * num) / (k * den) = a * num / den := by
    rw [Nat.mul_left_comm, Nat.mul_div_mul_left _ _ hk]
  unfold convert
  rw [hticks, Nat.mul_left_comm, divRound_mul_mul_left hk]

theorem waitCycles_mul_mul_left (hk : 0 < k) (ticks num den acc : Nat) :
    waitCycles ticks (k * num) (k * den) acc = waitCycles ticks num den acc := by
  unfold waitCycles
  rw [Nat.mul_left_comm, ceilDiv_mul_mul_left hk]

theorem beq_zero_of_toNat_eq_mul (hk : 0 < k) {w w' : Word} (h : w'.toNat = k * w.toNat) :
    (w' == 0) = (w == 0) := by
  rw [Bool.eq_iff_iff, beq_iff_eq, beq_iff_eq, BitVec.toNat_eq, BitVec.toNat_eq, h]
  change k * w.toNat = 0 ↔ w.toNat = 0
  rw [Nat.mul_eq_zero]
  omega

/-- Settles O19: `ACTUALIZE` and `REARM` use the ratio in these three functions only. -/
theorem ratioNeedNotBeReduced : Obligations.RatioNeedNotBeReduced := by
  intro s k now num den num' den' hk hnum hden
  have hconf : unconfigured num' den' = unconfigured num den := by
    rw [unconfigured, beq_zero_of_toNat_eq_mul hk hnum, beq_zero_of_toNat_eq_mul hk hden, unconfigured]
  constructor
  · change execActualize now num' den' s = execActualize now num den s
    unfold execActualize
    rw [hconf, hnum, hden, convert_mul_mul_left hk]
  · change execRearm now num' den' s = execRearm now num den s
    unfold execRearm
    rw [hconf, hnum, hden, waitCycles_mul_mul_left hk]

end Sys2Proof.Machine

end

/-! # The visible value of a Triangle counter (R31) -/

section

namespace Sys2Proof.Machine

/-- The three arms of the fold are one minimum: `Nat` subtraction stops at 0 above `2*limit`. -/
theorem visible_triangle_toNat (count limit : Word) :
    (visible count limit .triangle).toNat = min count.toNat (2 * limit.toNat - count.toNat) := by
  have hlimit := limit.isLt
  unfold visible
  dsimp only
  split
  · omega
  split
  · rw [BitVec.toNat_ofNat]
    omega
  · change 0 = min count.toNat (2 * limit.toNat - count.toNat)
    omega

theorem visible_triangle_le_limit (count limit : Word) : visible count limit .triangle ≤ limit := by
  rw [BitVec.le_def, visible_triangle_toNat]
  omega

/-- The same value is visible at `limit + d` and at `limit - d`. -/
theorem visible_triangle_fold {count limit : Word} {d : Nat} (hd : d ≤ limit.toNat)
    (hcount : count.toNat = limit.toNat + d) :
    visible (BitVec.ofNat 64 (limit.toNat - d)) limit .triangle = visible count limit .triangle := by
  have hlimit := limit.isLt
  apply BitVec.eq_of_toNat_eq
  rw [visible_triangle_toNat, visible_triangle_toNat, BitVec.toNat_ofNat]
  omega

/-- Settles O46. -/
theorem triangleReadsFoldAtLimit : Obligations.TriangleReadsFoldAtLimit := by
  intro s t hmode h
  cases (complete_next_iff _ _ _).1 h
  constructor
  · change visible s.count s.limit s.mode ≤ s.limit
    rw [hmode]
    exact visible_triangle_le_limit _ _
  · intro d hd hcount
    refine (complete_next_iff _ _ _).2 ?_
    rw [hmode, visible_triangle_fold hd hcount]

end Sys2Proof.Machine

end

/-! # Held results and the queue are not read (R26)

The property is closed under `if` and holds of every way to complete, so it is read off the shape of each
meaning. -/

section

namespace Sys2Proof.Machine

/-- `s` with other results held and other bundles issued. -/
abbrev State.withPorts (s : State) (o : Results) (p : List Bundle) : State :=
  { s with out := o, pending := p }

/-- `f` reads neither the held results nor the queue, and keeps the queue. -/
def PortsNotRead (f : State → Outcome) : Prop :=
  ∀ (s t : State) (o : Results) (p : List Bundle), f s = .next t →
    f (s.withPorts o p) = .next { t with pending := p }

namespace PortsNotRead

theorem complete {r : State → Results} {u : State → State}
    (h : ∀ s o p, Machine.complete (r (s.withPorts o p)) (u (s.withPorts o p)) =
      .next { u s with out := r s, pending := p }) :
    PortsNotRead fun s => Machine.complete (r s) (u s) := by
  intro s t o p ht
  cases (complete_next_iff _ _ _).1 ht
  exact h s o p

theorem raise (e : Err) : PortsNotRead (raise e) := complete fun _ _ _ => rfl

theorem ite {c : State → Prop} [DecidablePred c] {f g : State → Outcome}
    (hc : ∀ s o p, c (s.withPorts o p) ↔ c s) (hf : PortsNotRead f) (hg : PortsNotRead g) :
    PortsNotRead fun s => if c s then f s else g s := by
  intro s t o p ht
  by_cases h : c s
  · exact (if_pos ((hc s o p).2 h)).trans (hf s t o p ((if_pos h).symm.trans ht))
  · exact (if_neg (mt (hc s o p).1 h)).trans (hg s t o p ((if_neg h).symm.trans ht))

/-- The check every operation with a `now` operand begins with (R145). -/
theorem timed {now : Word} {f : State → Outcome} (hf : PortsNotRead f) :
    PortsNotRead fun s => if now < s.last then Machine.raise .timeRegression s else f s :=
  ite (fun _ _ _ => Iff.rfl) (raise _) hf

theorem execActualize (now num den : Word) : PortsNotRead (execActualize now num den) :=
  timed <|
  ite (fun _ _ _ => Iff.rfl) (complete fun _ _ _ => rfl) <|
  ite (fun _ _ _ => Iff.rfl) (raise _) <|
  ite (fun _ _ _ => Iff.rfl) (complete fun _ _ _ => rfl) <|
  ite (fun _ _ _ => Iff.rfl) (raise _) (complete fun _ _ _ => rfl)

theorem execRearm (now num den : Word) : PortsNotRead (execRearm now num den) :=
  timed <|
  ite (fun _ _ _ => Iff.rfl) (complete fun _ _ _ => rfl) <|
  ite (fun _ _ _ => Iff.rfl) (complete fun _ _ _ => rfl) <|
  ite (fun _ _ _ => Iff.rfl) (raise _) (complete fun _ _ _ => rfl)

theorem execSetmode (tag : BitVec 2) : PortsNotRead (execSetmode tag) := by
  unfold Machine.execSetmode
  cases modeOfTag tag with
  | some m => exact complete fun _ _ _ => rfl
  | none => exact raise _

theorem execRdf (sel : BitVec 4) : PortsNotRead (execRdf sel) := by
  intro s t o p h
  have hread : readField (s.withPorts o p) sel = readField s sel := rfl
  rw [Machine.execRdf, hread]
  obtain ⟨v, hv, rfl⟩ | ⟨hnone, h⟩ := execRdf_next_cases h
  · rw [hv]
    rfl
  · rw [hnone]
    exact raise _ s t o p h

theorem exec (i : Instr) : PortsNotRead (exec i) := by
  cases i with
  | actualize now num den => exact execActualize now num den
  | rearm now num den => exact execRearm now num den
  | expire now =>
    exact timed <| ite (fun _ _ _ => Iff.rfl) (raise _) (complete fun _ _ _ => rfl)
  | start now =>
    exact timed <| ite (fun _ _ _ => Iff.rfl) (complete fun _ _ _ => rfl) (complete fun _ _ _ => rfl)
  | reset now => exact timed <| complete fun _ _ _ => rfl
  | setmode tag => exact execSetmode tag
  | rdf sel => exact execRdf sel
  | cancel => exact complete fun _ _ _ => rfl
  | stop => exact complete fun _ _ _ => rfl
  | setlimit v => exact complete fun _ _ _ => rfl
  | load v => exact complete fun _ _ _ => rfl
  | read => exact complete fun _ _ _ => rfl

end PortsNotRead

/-- Settles O54. -/
theorem resultsAndQueueAreNotRead : Obligations.ResultsAndQueueAreNotRead :=
  fun i s t o p h => PortsNotRead.exec i s t o p h

end Sys2Proof.Machine

end

/-! # A step and its operation, and `last` (R44, R45) -/

section

namespace Sys2Proof.Machine

variable {s t : State} {i : Instr}

theorem step_of_decode_ok {b : Bundle} {rest : List Bundle} (hp : s.pending = b :: rest)
    (hd : Sys2Proof.decode b = .ok i) : step s = exec i { s with pending := rest } := by
  simp only [step, fetch_cons s b rest hp, hd]

theorem step_of_nothing_pending (hp : s.pending = []) : step s = .next s := by
  simp only [step, fetch_nil s hp, idle]

/-- Settles O6. -/
theorem stepRunsDecodedOperation : Obligations.StepRunsDecodedOperation :=
  ⟨fun _ _ _ _ hp hd => step_of_decode_ok hp hd, fun _ hp => step_of_nothing_pending hp⟩

/-- The operations that write `last` store a `now` that passed the check of R145; the others, and every
raise, keep it. -/
theorem exec_last_le (h : exec i s = .next t) : s.last ≤ t.last := by
  obtain hc | ⟨e, -, rfl⟩ := exec_next_cases h
  · cases hc with
    | actualizeStopped hlast => exact hlast
    | actualizeUnconfigured hlast => exact hlast
    | actualizeConverted hlast => exact hlast
    | startStopped hlast => exact hlast
    | reset hlast => exact hlast
    | _ => exact BitVec.le_refl s.last
  · exact BitVec.le_refl s.last

/-- Settles O50: only an operation can move `last`, and `exec_last_le` bounds it. -/
theorem lastNeverMovesBack : Obligations.LastNeverMovesBack := by
  intro s t h
  obtain ⟨-, rfl⟩ | ⟨b, rest, i, -, -, h⟩ | ⟨b, rest, e, -, -, h⟩ := step_next_cases h
  · exact BitVec.le_refl _
  · exact exec_last_le (s := { s with pending := rest }) h
  · cases (raise_next_iff _ _ _).1 h
    exact BitVec.le_refl s.last

end Sys2Proof.Machine

end

/-! # Boards (R46, R159)

A board steps at `k` by applying one function of a state at position `k` of its list, so what the library
says of `List.modify` at two different positions says that steps there do not interfere. -/

section

namespace Sys2Proof.Machine

/-- What a step on a board leaves in place of `s`: the next state, or `s` itself. -/
def State.stepped (s : State) : State :=
  match step s with
  | .next t => t
  | .fault _ => s
  | .refused _ => s

theorem Board.stepAt_eq_modify (b : Board) (k : Nat) :
    b.stepAt k = ⟨b.instances.modify k State.stepped⟩ := by
  rw [List.modify_eq_set_getElem?]
  unfold Board.stepAt
  cases hk : b.instances[k]? with
  | none => rfl
  | some s =>
    have hkept : b.instances.set k s = b.instances := by
      obtain ⟨hlt, rfl⟩ := List.getElem?_eq_some_iff.1 hk
      exact List.set_getElem_self hlt
    cases hs : step s with
    | next t => simp [State.stepped, hs, Board.put]
    | fault r => simp [State.stepped, hs, hkept]
    | refused r => simp [State.stepped, hs, hkept]

theorem Board.stepAt_comm (b : Board) {j k : Nat} (hne : j ≠ k) :
    (b.stepAt j).stepAt k = (b.stepAt k).stepAt j := by
  simp only [Board.stepAt_eq_modify, List.modify_modify_ne _ _ _ hne]

theorem Board.stepAt_getElem?_ne (b : Board) {j k : Nat} (hne : j ≠ k) :
    (b.stepAt j).instances[k]? = b.instances[k]? := by
  rw [Board.stepAt_eq_modify]
  exact List.getElem?_modify_ne _ _ hne

/-- Settles O55. -/
theorem instancesCommute : Obligations.InstancesCommute :=
  fun b _ _ hne => ⟨b.stepAt_comm hne, b.stepAt_getElem?_ne hne⟩

end Sys2Proof.Machine

end

/-! # The decoder and the encoder (R51 to R58)

`DecodeSpec` says what each answer of the decoder means: a bundle that decodes to `i` shows the byte of `i`
and the operands of `i` on the ports its format lists, and a rejected bundle has a byte outside the opcode
map. It is proved once, along the branches of `decode`; the converse is a case for each operation. -/

section

namespace Sys2Proof

variable {b c : Bundle} {i : Instr} {cmd : Cmd}

/-! ## The fields of the command byte (R51) -/

theorem opField_toNat (cmd : Cmd) : (opField cmd).toNat = cmd.toNat / 16 := by
  have := cmd.isLt
  simp only [opField, BitVec.extractLsb'_toNat, Nat.shiftRight_eq_div_pow]
  omega

theorem selField_toNat (cmd : Cmd) : (selField cmd).toNat = cmd.toNat % 16 := by
  simp [selField]

theorem opField_append_selField : ∀ cmd : Cmd, opField cmd ++ selField cmd = cmd := by decide

theorem cmd_eq_op_append_sel {op : BitVec 4} (hop : (opField cmd).toNat = op.toNat) :
    cmd = op ++ selField cmd := by
  rw [← BitVec.eq_of_toNat_eq hop, opField_append_selField]

/-- `SETMODE`'s byte from its two fields, when `sel[3:2]` is zero. -/
theorem setmode_op_append_sel : ∀ sel : BitVec 4, sel.extractLsb' 2 2 = 0 →
    9#4 ++ sel = 0b100100#6 ++ sel.extractLsb' 0 2 := by decide

theorem sel_high_eq_zero_of_lt_four : ∀ sel : BitVec 4, sel.toNat < 4 → sel.extractLsb' 2 2 = 0 := by
  decide

theorem opField_setmode : ∀ tag : BitVec 2, opField (Instr.setmode tag).cmdByte = 9 := by decide

theorem selField_setmode_low : ∀ tag : BitVec 2,
    (selField (Instr.setmode tag).cmdByte).extractLsb' 0 2 = tag := by decide

theorem opField_rdf : ∀ sel : BitVec 4, opField (Instr.rdf sel).cmdByte = 12 := by decide

theorem selField_rdf : ∀ sel : BitVec 4, selField (Instr.rdf sel).cmdByte = sel := by decide

theorem encode_cmd (i : Instr) : (encode i).cmd = i.cmdByte := by cases i <;> rfl

/-! ## The ports each format lists (R52) -/

theorem sameListed_n_iff : Format.n.SameListed b c ↔ b.cmd = c.cmd := by
  simp [Format.readsNow, Format.readsRatio, Format.readsWdata]

theorem sameListed_t_iff : Format.t.SameListed b c ↔ b.cmd = c.cmd ∧ b.now = c.now := by
  simp [Format.readsNow, Format.readsRatio, Format.readsWdata]

theorem sameListed_r_iff :
    Format.r.SameListed b c ↔ b.cmd = c.cmd ∧ b.now = c.now ∧ b.num = c.num ∧ b.den = c.den := by
  simp [Format.readsNow, Format.readsRatio, Format.readsWdata]

theorem sameListed_w_iff : Format.w.SameListed b c ↔ b.cmd = c.cmd ∧ b.wdata = c.wdata := by
  simp [Format.readsNow, Format.readsRatio, Format.readsWdata]

theorem sameListed_m_iff : Format.m.SameListed b c ↔ b.cmd = c.cmd := by
  simp [Format.readsNow, Format.readsRatio, Format.readsWdata]

theorem sameListed_f_iff : Format.f.SameListed b c ↔ b.cmd = c.cmd := by
  simp [Format.readsNow, Format.readsRatio, Format.readsWdata]

theorem Format.SameListed.symm_trans {fmt : Format} {d : Bundle} (hb : fmt.SameListed b d)
    (hc : fmt.SameListed b c) : fmt.SameListed c d := by
  obtain ⟨hcmd, hnow, hratio, hwdata⟩ := hb
  obtain ⟨hcmd', hnow', hratio', hwdata'⟩ := hc
  exact ⟨hcmd'.symm.trans hcmd, fun h => (hnow' h).symm.trans (hnow h),
    fun h => ⟨(hratio' h).1.symm.trans (hratio h).1, (hratio' h).2.symm.trans (hratio h).2⟩,
    fun h => (hwdata' h).symm.trans (hwdata h)⟩

/-! ## What the decoder's answers mean -/

/-- The byte is outside the opcode map: an unassigned `op`, or selector bits that its format wants zero
(R57). -/
abbrev MatchesNoRow (cmd : Cmd) : Prop :=
  cmd.toNat / 16 = 0 ∨ 13 ≤ cmd.toNat / 16 ∨
    (cmd.toNat / 16 ≠ 9 ∧ cmd.toNat / 16 ≠ 12 ∧ cmd.toNat % 16 ≠ 0) ∨
    (cmd.toNat / 16 = 9 ∧ 4 ≤ cmd.toNat % 16)

theorem matchesNoRow_of_opField (h : (opField cmd).toNat = 0 ∨ 13 ≤ (opField cmd).toNat) :
    MatchesNoRow cmd := by
  rw [opField_toNat] at h
  exact h.imp_right .inl

/-- What each answer of the decoder to `b` means. -/
inductive DecodeSpec (b : Bundle) : Except DecodeError Instr → Prop
  | matched {i : Instr} (h : i.format.SameListed b (encode i)) : DecodeSpec b (.ok i)
  | unmatched {e : DecodeError} (h : MatchesNoRow b.cmd) : DecodeSpec b (.error e)

/-- The branch of an operation in format N, T, R or W: a zero selector makes its byte. -/
theorem needSelZero_spec {op : BitVec 4} (hop : (opField b.cmd).toNat = op.toNat)
    (hrow : op.toNat ≠ 9 ∧ op.toNat ≠ 12)
    (hports : b.cmd = op ++ 0#4 → i.format.SameListed b (encode i)) :
    DecodeSpec b (needSelZero (opField b.cmd) (selField b.cmd) i) := by
  unfold needSelZero
  split
  next hsel => exact .matched (hports ((cmd_eq_op_append_sel hop).trans (congrArg (op ++ ·) hsel)))
  next hsel =>
    have hne : b.cmd.toNat % 16 ≠ 0 := fun h =>
      hsel (BitVec.eq_of_toNat_eq ((selField_toNat b.cmd).trans h))
    rw [← hop, opField_toNat] at hrow
    exact .unmatched (.inr (.inr (.inl ⟨hrow.1, hrow.2, hne⟩)))

theorem decodeSetmode_spec (hop : (opField b.cmd).toNat = 9) :
    DecodeSpec b (decodeSetmode (selField b.cmd)) := by
  unfold decodeSetmode
  split
  next hsel =>
    have hcmd : b.cmd = 9#4 ++ selField b.cmd := cmd_eq_op_append_sel hop
    exact .matched (sameListed_m_iff.2 (hcmd.trans (setmode_op_append_sel _ hsel)))
  next hsel =>
    have hsel4 : 4 ≤ (selField b.cmd).toNat := Nat.le_of_not_lt (mt (sel_high_eq_zero_of_lt_four _) hsel)
    rw [selField_toNat] at hsel4
    rw [opField_toNat] at hop
    exact .unmatched (.inr (.inr (.inr ⟨hop, hsel4⟩)))

theorem decode_spec (b : Bundle) : DecodeSpec b (decode b) := by
  unfold decode
  dsimp only
  split
  next hop =>
    exact needSelZero_spec (op := 1) hop (by decide) fun h => sameListed_r_iff.2 ⟨h, rfl, rfl, rfl⟩
  next hop =>
    exact needSelZero_spec (op := 2) hop (by decide) fun h => sameListed_r_iff.2 ⟨h, rfl, rfl, rfl⟩
  next hop => exact needSelZero_spec (op := 3) hop (by decide) fun h => sameListed_t_iff.2 ⟨h, rfl⟩
  next hop => exact needSelZero_spec (op := 4) hop (by decide) fun h => sameListed_n_iff.2 h
  next hop => exact needSelZero_spec (op := 5) hop (by decide) fun h => sameListed_t_iff.2 ⟨h, rfl⟩
  next hop => exact needSelZero_spec (op := 6) hop (by decide) fun h => sameListed_n_iff.2 h
  next hop => exact needSelZero_spec (op := 7) hop (by decide) fun h => sameListed_t_iff.2 ⟨h, rfl⟩
  next hop => exact needSelZero_spec (op := 8) hop (by decide) fun h => sameListed_w_iff.2 ⟨h, rfl⟩
  next hop => exact decodeSetmode_spec hop
  next hop => exact needSelZero_spec (op := 10) hop (by decide) fun h => sameListed_w_iff.2 ⟨h, rfl⟩
  next hop => exact needSelZero_spec (op := 11) hop (by decide) fun h => sameListed_n_iff.2 h
  next hop => exact .matched (sameListed_f_iff.2 (cmd_eq_op_append_sel (op := 12) hop))
  next =>
    have hop : (opField b.cmd).toNat = 0 ∨ 13 ≤ (opField b.cmd).toNat := by grind
    exact .unmatched (matchesNoRow_of_opField hop)

theorem sameListed_of_decode (h : decode b = .ok i) : i.format.SameListed b (encode i) := by
  have hspec := decode_spec b
  rw [h] at hspec
  cases hspec with
  | matched hlisted => exact hlisted

theorem matchesNoRow_of_decode {e : DecodeError} (h : decode b = .error e) : MatchesNoRow b.cmd := by
  have hspec := decode_spec b
  rw [h] at hspec
  cases hspec with
  | unmatched hno => exact hno

/-! ## Every bundle that shows an operation decodes to it

An equation for each row of the opcode map (R53). -/

theorem decode_actualize (h : b.cmd = 0x10) : decode b = .ok (.actualize b.now b.num b.den) := by
  simp only [decode, h]
  rfl

theorem decode_rearm (h : b.cmd = 0x20) : decode b = .ok (.rearm b.now b.num b.den) := by
  simp only [decode, h]
  rfl

theorem decode_expire (h : b.cmd = 0x30) : decode b = .ok (.expire b.now) := by
  simp only [decode, h]
  rfl

theorem decode_cancel (h : b.cmd = 0x40) : decode b = .ok .cancel := by
  simp only [decode, h]
  rfl

theorem decode_start (h : b.cmd = 0x50) : decode b = .ok (.start b.now) := by
  simp only [decode, h]
  rfl

theorem decode_stop (h : b.cmd = 0x60) : decode b = .ok .stop := by
  simp only [decode, h]
  rfl

theorem decode_reset (h : b.cmd = 0x70) : decode b = .ok (.reset b.now) := by
  simp only [decode, h]
  rfl

theorem decode_setlimit (h : b.cmd = 0x80) : decode b = .ok (.setlimit b.wdata) := by
  simp only [decode, h]
  rfl

theorem decode_load (h : b.cmd = 0xA0) : decode b = .ok (.load b.wdata) := by
  simp only [decode, h]
  rfl

theorem decode_read (h : b.cmd = 0xB0) : decode b = .ok .read := by
  simp only [decode, h]
  rfl

theorem decode_setmode {tag : BitVec 2} (h : b.cmd = (Instr.setmode tag).cmdByte) :
    decode b = .ok (.setmode tag) := by
  have hhigh : (selField b.cmd).extractLsb' 2 2 = 0 := h ▸ Laws.SelectorAsFormatSays.setmode_sel_high tag
  have hlow : (selField b.cmd).extractLsb' 0 2 = tag := h ▸ selField_setmode_low tag
  have hop : opField b.cmd = 9 := h ▸ opField_setmode tag
  have hsel : decodeSetmode (selField b.cmd) = .ok (.setmode tag) := by rw [decodeSetmode, if_pos hhigh, hlow]
  simp only [decode, hop, hsel]
  rfl

theorem decode_rdf {sel : BitVec 4} (h : b.cmd = (Instr.rdf sel).cmdByte) : decode b = .ok (.rdf sel) := by
  simp only [decode, h, opField_rdf, selField_rdf]
  rfl

theorem decode_of_sameListed (h : i.format.SameListed b (encode i)) : decode b = .ok i := by
  cases i with
  | actualize =>
    obtain ⟨hcmd, rfl, rfl, rfl⟩ := sameListed_r_iff.1 h
    exact decode_actualize hcmd
  | rearm =>
    obtain ⟨hcmd, rfl, rfl, rfl⟩ := sameListed_r_iff.1 h
    exact decode_rearm hcmd
  | expire =>
    obtain ⟨hcmd, rfl⟩ := sameListed_t_iff.1 h
    exact decode_expire hcmd
  | cancel => exact decode_cancel (sameListed_n_iff.1 h)
  | start =>
    obtain ⟨hcmd, rfl⟩ := sameListed_t_iff.1 h
    exact decode_start hcmd
  | stop => exact decode_stop (sameListed_n_iff.1 h)
  | reset =>
    obtain ⟨hcmd, rfl⟩ := sameListed_t_iff.1 h
    exact decode_reset hcmd
  | setlimit =>
    obtain ⟨hcmd, rfl⟩ := sameListed_w_iff.1 h
    exact decode_setlimit hcmd
  | setmode => exact decode_setmode (sameListed_m_iff.1 h)
  | load =>
    obtain ⟨hcmd, rfl⟩ := sameListed_w_iff.1 h
    exact decode_load hcmd
  | read => exact decode_read (sameListed_n_iff.1 h)
  | rdf => exact decode_rdf (sameListed_f_iff.1 h)

/-- Settles O2: an operation's own bundle shows it. -/
theorem decodeOfEncode : Obligations.DecodeOfEncode :=
  fun _ => decode_of_sameListed ⟨rfl, fun _ => rfl, fun _ => ⟨rfl, rfl⟩, fun _ => rfl⟩

/-- Settles O3. -/
theorem decodeReadsListedPortsOnly : Obligations.DecodeReadsListedPortsOnly := by
  intro b c i h
  have hlisted := sameListed_of_decode h
  exact ⟨hlisted, fun hc => decode_of_sameListed (hlisted.symm_trans hc)⟩

/-- Settles O1. -/
theorem specCommandBytesDecode : Obligations.SpecCommandBytesDecode := by
  intro now num den wdata
  exact ⟨decode_actualize rfl, decode_rearm rfl, decode_expire rfl, decode_cancel rfl, decode_start rfl,
    decode_stop rfl, decode_reset rfl, decode_setlimit rfl, decode_setmode rfl, decode_load rfl,
    decode_read rfl, decode_rdf rfl⟩

end Sys2Proof

end

/-! # Illegal bytes and ill-formed operations (R57, R58, R148)

An illegal byte either matches no row or is the byte of an ill-formed operation; an ill-formed operation
does nothing but raise `IllegalCommand`, and a well-formed one answers and does not raise it. -/

section

namespace Sys2Proof.Machine

variable {s t : State} {i : Instr} {b : Bundle} {rest : List Bundle} {cmd : Cmd}

/-- The bytes R57 calls illegal. -/
abbrev IllegalByte (cmd : Cmd) : Prop :=
  cmd.toNat / 16 = 0 ∨ 13 ≤ cmd.toNat / 16 ∨
    (cmd.toNat / 16 ≠ 9 ∧ cmd.toNat / 16 ≠ 12 ∧ cmd.toNat % 16 ≠ 0) ∨
    (cmd.toNat / 16 = 9 ∧ 3 ≤ cmd.toNat % 16) ∨ (cmd.toNat / 16 = 12 ∧ 9 ≤ cmd.toNat % 16)

theorem illegalByte_of_matchesNoRow (h : MatchesNoRow cmd) : IllegalByte cmd := by
  obtain hzero | hhigh | hsel | ⟨hop, hsel⟩ := h
  · exact .inl hzero
  · exact .inr (.inl hhigh)
  · exact .inr (.inr (.inl hsel))
  · exact .inr (.inr (.inr (.inl ⟨hop, Nat.le_of_succ_le hsel⟩)))

theorem illegalByte_setmode_iff : ∀ tag : BitVec 2,
    IllegalByte (Instr.setmode tag).cmdByte ↔ wellFormedTag tag = false := by decide

theorem illegalByte_rdf_iff : ∀ sel : BitVec 4,
    IllegalByte (Instr.rdf sel).cmdByte ↔ wellFormedSel sel = false := by decide

/-- Among the bytes of the opcode map, the illegal ones are those of the ill-formed operations. -/
theorem illegalByte_cmdByte_iff (i : Instr) : IllegalByte i.cmdByte ↔ i.wellFormed = false := by
  cases i with
  | setmode tag => exact illegalByte_setmode_iff tag
  | rdf sel => exact illegalByte_rdf_iff sel
  | _ => simp [Instr.cmdByte, Instr.wellFormed]

/-! ## What ill-formed and well-formed operations answer -/

theorem modeOfTag_eq_none_iff : ∀ tag : BitVec 2, modeOfTag tag = none ↔ wellFormedTag tag = false := by
  decide

theorem readField_eq_none_iff (s : State) (sel : BitVec 4) :
    readField s sel = none ↔ wellFormedSel sel = false := by
  rw [← Option.not_isSome_iff_eq_none, readField_isSome_iff, wellFormedSel, decide_eq_false_iff_not]

theorem exec_of_illFormed (hi : i.wellFormed = false) (s : State) :
    exec i s = raise .illegalCommand s := by
  cases i with
  | setmode tag => rw [exec, execSetmode, (modeOfTag_eq_none_iff tag).2 hi]
  | rdf sel => rw [exec, execRdf, (readField_eq_none_iff s sel).2 hi]
  | _ => exact Bool.noConfusion hi

/-- The outcome is a next state whose results are not `IllegalCommand`. -/
def AnswersLegally (o : Outcome) : Prop := ∃ t, o = .next t ∧ t.out.err ≠ .illegalCommand

namespace AnswersLegally

theorem complete {r : Results} (hr : r.err ≠ .illegalCommand := by exact Err.noConfusion) :
    AnswersLegally (complete r s) := ⟨_, rfl, hr⟩

theorem raise {e : Err} (he : e ≠ .illegalCommand := by exact Err.noConfusion) :
    AnswersLegally (raise e s) := complete he

theorem ite {c : Prop} [Decidable c] {x y : Outcome} (hx : AnswersLegally x) (hy : AnswersLegally y) :
    AnswersLegally (if c then x else y) := by
  split
  · exact hx
  · exact hy

/-- An operation that begins with the check of R145. -/
theorem timed {now : Word} {o : Outcome} (ho : AnswersLegally o) :
    AnswersLegally (if now < s.last then Machine.raise .timeRegression s else o) :=
  ite raise ho

theorem execActualize (now num den : Word) (s : State) : AnswersLegally (execActualize now num den s) :=
  timed <| ite complete <| ite raise <| ite complete <|
    ite raise complete

theorem execRearm (now num den : Word) (s : State) : AnswersLegally (execRearm now num den s) :=
  timed <| ite complete <| ite complete <| ite raise complete

theorem execSetmode {tag : BitVec 2} (htag : modeOfTag tag ≠ none) (s : State) :
    AnswersLegally (execSetmode tag s) := by
  obtain ⟨m, hm⟩ := Option.ne_none_iff_exists'.1 htag
  rw [Machine.execSetmode, hm]
  exact complete

theorem execRdf {sel : BitVec 4} (hsel : readField s sel ≠ none) : AnswersLegally (execRdf sel s) := by
  obtain ⟨v, hv⟩ := Option.ne_none_iff_exists'.1 hsel
  rw [Machine.execRdf, hv]
  exact complete

theorem exec (hi : i.wellFormed = true) (s : State) : AnswersLegally (exec i s) := by
  have hne : i.wellFormed ≠ false := by simp [hi]
  cases i with
  | actualize now num den => exact execActualize now num den s
  | rearm now num den => exact execRearm now num den s
  | expire now => exact timed <| ite raise complete
  | start now => exact timed <| ite complete complete
  | reset now => exact timed <| complete
  | setmode tag => exact execSetmode (mt (modeOfTag_eq_none_iff tag).1 hne) s
  | rdf sel => exact execRdf (mt (readField_eq_none_iff s sel).1 hne)
  | cancel => exact complete
  | stop => exact complete
  | setlimit v => exact complete
  | load v => exact complete
  | read => exact complete

end AnswersLegally

/-- Settles O7. -/
theorem illFormedOperationsAreIllegal : Obligations.IllFormedOperationsAreIllegal := by
  intro i s t h
  cases hi : i.wellFormed with
  | true =>
    obtain ⟨t', ht', hlegal⟩ := AnswersLegally.exec hi s
    cases h.symm.trans ht'
    simp [hlegal]
  | false =>
    rw [exec_of_illFormed hi, raise_next_iff] at h
    simp [h]

/-! ## Steps -/

theorem step_of_decode_error {e : DecodeError} (hp : s.pending = b :: rest)
    (hd : Sys2Proof.decode b = .error e) : step s = raise .illegalCommand { s with pending := rest } := by
  simp only [step, fetch_cons s b rest hp, hd, rejectCommand]

theorem step_of_illegalByte (hp : s.pending = b :: rest) (hb : IllegalByte b.cmd) :
    step s = raise .illegalCommand { s with pending := rest } := by
  cases hd : Sys2Proof.decode b with
  | error e => exact step_of_decode_error hp hd
  | ok i =>
    rw [(sameListed_of_decode hd).1, encode_cmd, illegalByte_cmdByte_iff] at hb
    rw [step_of_decode_ok hp hd, exec_of_illFormed hb]

theorem step_of_not_illegalByte (hp : s.pending = b :: rest) (hb : ¬ IllegalByte b.cmd) :
    AnswersLegally (step s) := by
  cases hd : Sys2Proof.decode b with
  | error e => exact absurd (illegalByte_of_matchesNoRow (matchesNoRow_of_decode hd)) hb
  | ok i =>
    rw [(sameListed_of_decode hd).1, encode_cmd, illegalByte_cmdByte_iff, Bool.not_eq_false] at hb
    rw [step_of_decode_ok hp hd]
    exact AnswersLegally.exec hb _

/-- Settles O4. -/
theorem illegalBytesRaiseIllegalCommand : Obligations.IllegalBytesRaiseIllegalCommand := by
  intro s b rest hp
  by_cases hb : IllegalByte b.cmd
  · exact ⟨_, step_of_illegalByte hp hb, iff_of_true rfl hb, fun _ => rfl⟩
  · obtain ⟨t, ht, hlegal⟩ := step_of_not_illegalByte hp hb
    exact ⟨t, ht, iff_of_false hlegal hb, fun h => absurd h hb⟩

/-! ## How many bytes there are of each kind (R58) -/

theorem not_matchesNoRow_setmode : ∀ tag : BitVec 2, ¬ MatchesNoRow (Instr.setmode tag).cmdByte := by decide

theorem not_matchesNoRow_rdf : ∀ sel : BitVec 4, ¬ MatchesNoRow (Instr.rdf sel).cmdByte := by decide

theorem not_matchesNoRow_cmdByte (i : Instr) : ¬ MatchesNoRow i.cmdByte := by
  cases i with
  | setmode tag => exact not_matchesNoRow_setmode tag
  | rdf sel => exact not_matchesNoRow_rdf sel
  | _ => simp [Instr.cmdByte]

theorem decodeTableWord_isSome {w : Nat} (hw : w < 256) :
    (decodeTableWord 8 w).isSome = decide (¬ MatchesNoRow (tableBundle w).cmd) := by
  rw [decodeTableWord, if_pos ⟨rfl, hw⟩]
  cases hd : Sys2Proof.decode (tableBundle w) with
  | ok i =>
    have hrow := not_matchesNoRow_cmdByte i
    rw [← encode_cmd, ← (sameListed_of_decode hd).1] at hrow
    exact (decide_eq_true hrow).symm
  | error e => exact (decide_eq_false (not_not_intro (matchesNoRow_of_decode hd))).symm

/-- Settles O5: both counts are counts of the bytes that the two predicates describe. -/
theorem commandBytesCounted : Obligations.CommandBytesCounted := by
  constructor
  · rw [List.filter_congr fun w hw => decodeTableWord_isSome (List.mem_range.1 hw)]
    rfl
  · rw [List.filter_congr (q := fun w => decide (IllegalByte (tableBundle (w % 2 ^ 8)).cmd))]
    · rfl
    · intro w _
      by_cases hb : IllegalByte (tableBundle (w % 2 ^ 8)).cmd
      · rw [step_of_illegalByte (s := State.reset.withFetchWord 8 w) rfl hb, decide_eq_true hb]
        rfl
      · obtain ⟨t, ht, hlegal⟩ := step_of_not_illegalByte (s := State.reset.withFetchWord 8 w) rfl hb
        rw [ht, decide_eq_false hb]
        exact beq_false_of_ne hlegal

end Sys2Proof.Machine

end

/-! # `ACTUALIZE`, case by case (R73 to R82)

One equation for each way `ACTUALIZE` can go once `now` is no regression, and one for each counting mode. -/

section

namespace Sys2Proof.Machine

/-- The arm of `ACTUALIZE` in the dispatch. -/
theorem exec_actualize (now num den : Word) (s : State) :
    exec (.actualize now num den) s = execActualize now num den s := rfl

theorem toNat_le_MAX64 (w : Word) : w.toNat ≤ MAX64 := Nat.le_pred_of_lt w.isLt

/-! ## The counting modes -/

theorem advanceDown_eq (count ticks : Nat) :
    advanceDown count ticks = ⟨if count ≤ ticks then 0 else count - ticks, decide (count ≤ ticks)⟩ := by
  unfold advanceDown
  split <;> simp [*]

theorem advanceUp_zero (count ticks : Nat) : advanceUp 0 count ticks = ⟨0, decide (ticks ≠ 0)⟩ :=
  if_pos rfl

theorem advanceUp_of_ne_zero {e : Nat} (he : e ≠ 0) (count ticks : Nat) :
    advanceUp e count ticks =
      ⟨if e < count + ticks then (count + ticks) % (e + 1) else count + ticks,
        decide (e < count + ticks)⟩ := by
  rw [advanceUp, if_neg he]
  split <;> simp [*]

theorem advanceUp_no_ticks {e count : Nat} (h : count ≤ e) : advanceUp e count 0 = ⟨count, false⟩ := by
  obtain rfl | he := Nat.eq_zero_or_pos e
  · rw [advanceUp_zero, Nat.le_zero.1 h]
    rfl
  · simp [advanceUp_of_ne_zero he.ne', Nat.not_lt.2 h]

/-- R81: with limit 0 both upward modes have the effective limit 0. -/
theorem advance_limit_zero {mode : Mode} (hmode : mode ≠ .countdown) (count ticks : Nat) :
    advance mode 0 count ticks = ⟨0, decide (ticks ≠ 0)⟩ := by
  cases mode with
  | sawtooth => exact advanceUp_zero count ticks
  | triangle => exact advanceUp_zero count ticks
  | countdown => exact absurd rfl hmode

/-- R80: Triangle wraps at `2*limit`. -/
theorem advance_triangle {limit : Nat} (hlimit : limit ≠ 0) (count ticks : Nat) :
    advance .triangle limit count ticks =
      ⟨if 2 * limit < count + ticks then (count + ticks) % (2 * limit + 1) else count + ticks,
        decide (2 * limit < count + ticks)⟩ :=
  advanceUp_of_ne_zero (Nat.mul_ne_zero two_ne_zero hlimit) count ticks

/-- No tick, no change: a count inside the span, and not a Countdown at its boundary, stays (R72 item 2). -/
theorem advance_no_ticks {mode : Mode} {limit count : Nat} (hdown : mode = .countdown → count ≠ 0)
    (hup : mode ≠ .countdown → count ≤ effectiveLimit mode limit) :
    advance mode limit count 0 = ⟨count, false⟩ := by
  cases mode with
  | sawtooth => exact advanceUp_no_ticks (hup Mode.noConfusion)
  | triangle => exact advanceUp_no_ticks (hup Mode.noConfusion)
  | countdown =>
    have hcount : ¬ count ≤ 0 := fun h => hdown rfl (Nat.le_zero.1 h)
    exact if_neg hcount

/-- Outside Triangle mode a new count is at most the old one or `limit`, so it fits (R84). -/
theorem advance_count_le_MAX64 {mode : Mode} (hmode : mode ≠ .triangle) (limit count : Word) (ticks : Nat) :
    (advance mode limit.toNat count.toNat ticks).count ≤ MAX64 := by
  cases mode with
  | sawtooth => exact (advanceUp_count_le _ _ _).trans (toNat_le_MAX64 limit)
  | triangle => exact absurd rfl hmode
  | countdown => exact (advanceDown_count_le _ _).trans (toNat_le_MAX64 count)

/-- R84: only a Triangle count can fail to fit, and only when the span `2*limit` does not. -/
theorem advance_count_overflow {mode : Mode} {limit count : Word} {ticks : Nat}
    (h : MAX64 < (advance mode limit.toNat count.toNat ticks).count) :
    mode = .triangle ∧ limit ≠ 0 ∧ 2 ^ 63 ≤ limit.toNat := by
  have hmode : mode = .triangle := by
    by_contra hne
    exact absurd (advance_count_le_MAX64 hne limit count ticks) (Nat.not_le.2 h)
  subst hmode
  have hspan : (advance .triangle limit.toNat count.toNat ticks).count ≤ 2 * limit.toNat :=
    advance_count_le_of_ne_countdown Mode.noConfusion _ _ _
  have hwide : 2 ^ 64 ≤ 2 * limit.toNat := Nat.succ_le_of_lt (h.trans_le hspan)
  have hlimit : 2 ^ 63 ≤ limit.toNat := by omega
  exact ⟨rfl, fun hzero => by simp [hzero] at hlimit, hlimit⟩

/-! ## The paths -/

section

variable {s : State} {now num den : Word} (hlast : s.last ≤ now)

include hlast

/-- R75: a stopped counter only moves `last`. -/
theorem exec_actualize_stopped (hrun : s.running = false) :
    exec (.actualize now num den) s = completeOk { s with last := now } := by
  rw [exec_actualize, execActualize, if_neg (BitVec.not_lt.2 hlast), if_pos hrun]

variable (hrun : s.running = true) (hfit : cyclesAt now s ≤ MAX64)

include hrun hfit

/-- R77: with an unconfigured ratio the cycles wait in `acc`. -/
theorem exec_actualize_unconfigured (hratio : unconfigured num den = true) :
    exec (.actualize now num den) s =
      completeOk (State.log { s with last := now, acc := BitVec.ofNat 64 (cyclesAt now s) } stallLogged) := by
  rw [exec_actualize, execActualize, if_neg (BitVec.not_lt.2 hlast), if_neg (by simp [hrun]),
    if_neg (Nat.not_lt.2 hfit), if_pos hratio]

variable (hratio : Configured num den)

include hratio

/-- R73: a running counter with a configured ratio converts its cycles. -/
theorem exec_actualize_configured :
    exec (.actualize now num den) s = storeAdvance now (conversion now num den s).acc
      (conversion now num den s).ticks (advanced now num den s) s := by
  have hconf : ¬ unconfigured num den = true := by
    simp [(unconfigured_eq_false_iff num den).2 hratio]
  rw [exec_actualize, execActualize, if_neg (BitVec.not_lt.2 hlast), if_neg (by simp [hrun]),
    if_neg (Nat.not_lt.2 hfit), if_neg hconf]

/-- R73, where the new count `c` fits. -/
theorem exec_actualize_of_advanced {c : Nat} {e : Bool} (hadv : advanced now num den s = ⟨c, e⟩)
    (hc : c ≤ MAX64) :
    exec (.actualize now num den) s = .next { s with
      last := now
      acc := BitVec.ofNat 64 (conversion now num den s).acc
      count := BitVec.ofNat 64 c
      out := ⟨.ok, e, BitVec.ofNat 128 (conversion now num den s).ticks, 0⟩ } := by
  rw [exec_actualize_configured hlast hrun hfit hratio, hadv, storeAdvance, if_neg (Nat.not_lt.2 hc), complete]

/-- R84: the new count does not fit. -/
theorem exec_actualize_of_count_overflow (hc : MAX64 < (advanced now num den s).count) :
    exec (.actualize now num den) s = .next (raised s 0b00010 .overflow) := by
  rw [exec_actualize_configured hlast hrun hfit hratio, storeAdvance, if_pos hc]
  rfl

end

/-! ## The obligations about one `ACTUALIZE` -/

/-- Settles O8. -/
theorem actualizeStoppedMovesLastOnly : Obligations.ActualizeStoppedMovesLastOnly :=
  fun _ _ _ _ hlast hrun => exec_actualize_stopped hlast hrun

/-- Settles O9. -/
theorem actualizeUnconfiguredKeepsCycles : Obligations.ActualizeUnconfiguredKeepsCycles := by
  intro s now num den hlast hrun hratio hfit
  have hun : unconfigured num den = true := by simpa [unconfigured] using hratio
  exact exec_actualize_unconfigured hlast hrun hfit hun

/-- Settles O10: whatever `limit` is, the count only goes down. -/
theorem actualizeCountdownCountsDown : Obligations.ActualizeCountdownCountsDown := by
  intro s now num den hlast hrun hratio hmode hfit a T
  have hadv : advanced now num den s =
      ⟨if s.count.toNat ≤ T then 0 else s.count.toNat - T, decide (s.count.toNat ≤ T)⟩ := by
    rw [advanced, hmode]
    exact advanceDown_eq _ _
  have hcount : (advanced now num den s).count ≤ MAX64 :=
    advance_count_le_MAX64 (by simp [hmode]) s.limit s.count _
  rw [hadv] at hcount
  rw [exec_actualize_of_advanced hlast hrun hfit hratio hadv hcount, apply_ite (BitVec.ofNat 64)]
  rfl

/-- Settles O11. -/
theorem actualizeSawtoothWraps : Obligations.ActualizeSawtoothWraps := by
  intro s now num den hlast hrun hratio hmode hlimit hfit a T nc
  have hadv : advanced now num den s =
      ⟨if s.limit.toNat < nc then nc % (s.limit.toNat + 1) else nc, decide (s.limit.toNat < nc)⟩ := by
    rw [advanced, hmode]
    exact advanceUp_of_ne_zero (toNat_pos_of_ne_zero hlimit).ne' _ _
  have hcount : (advanced now num den s).count ≤ MAX64 :=
    advance_count_le_MAX64 (by simp [hmode]) s.limit s.count _
  rw [hadv] at hcount
  exact exec_actualize_of_advanced hlast hrun hfit hratio hadv hcount

/-- Settles O12. -/
theorem actualizeTriangleWraps : Obligations.ActualizeTriangleWraps := by
  intro s now num den hlast hrun hratio hmode hlimit hfit a T nc c hcount
  have hadv : advanced now num den s = ⟨c, decide (2 * s.limit.toNat < nc)⟩ := by
    rw [advanced, hmode]
    exact advance_triangle (toNat_pos_of_ne_zero hlimit).ne' _ _
  exact exec_actualize_of_advanced hlast hrun hfit hratio hadv hcount

/-- Settles O13. -/
theorem actualizeZeroLimitFiresOnTicks : Obligations.ActualizeZeroLimitFiresOnTicks := by
  intro s now num den hlast hrun hratio hmode hlimit hfit a T
  have hadv : advanced now num den s = ⟨0, decide (T ≠ 0)⟩ := by
    rw [advanced, hlimit]
    exact advance_limit_zero hmode _ _
  exact exec_actualize_of_advanced hlast hrun hfit hratio hadv (Nat.zero_le _)

/-- Settles O28: the operation raises exactly when the advanced count does not fit. -/
theorem actualizeOverflowOfCount : Obligations.ActualizeOverflowOfCount := by
  intro s now num den hlast hrun hratio hfit nc c
  have hcount (hmode : s.mode = .triangle) (hlimit : s.limit ≠ 0) : (advanced now num den s).count = c := by
    rw [advanced, hmode, advance_triangle (toNat_pos_of_ne_zero hlimit).ne']
    rfl
  by_cases hover : MAX64 < (advanced now num den s).count
  · obtain ⟨hmode, hlimit, hbig⟩ := advance_count_overflow hover
    refine ⟨_, exec_actualize_of_count_overflow hlast hrun hfit hratio hover, ?_, fun _ => ⟨rfl, hbig⟩⟩
    exact iff_of_true Err.noConfusion ⟨hmode, hlimit, hcount hmode hlimit ▸ hover⟩
  · refine ⟨_, exec_actualize_of_advanced hlast hrun hfit hratio rfl (Nat.not_lt.1 hover), ?_,
      fun herr => absurd rfl herr⟩
    exact iff_of_false (fun herr => herr rfl)
      fun ⟨hmode, hlimit, hc⟩ => hover (hcount hmode hlimit ▸ hc)

end Sys2Proof.Machine

end

/-! # What a conversion delivers, carries and loses (R71, R72) -/

section

namespace Sys2Proof.Machine

/-! ## One conversion -/

/-- The host cycles a conversion takes from `a` for the ticks it delivers (R71). -/
abbrev takenCycles (r : Rounding) (a num den : Nat) : Nat :=
  divRound r ((convert r a num den).ticks * den) num

section

variable (r : Rounding) (a : Nat) {num : Nat} (den : Nat)

/-- Every cycle is either carried or taken. -/
theorem convert_acc_add_taken (hn : 0 < num) :
    (convert r a num den).acc + takenCycles r a num den = a :=
  Nat.sub_add_cancel (convert_taken_le r a den hn)

theorem convert_acc_mul_add_taken_mul (hn : 0 < num) :
    (convert r a num den).acc * num + takenCycles r a num den * num = a * num := by
  rw [← Nat.add_mul, convert_acc_add_taken r a den hn]

/-- R72 item 5: under Ceil the delivered ticks and carried cycles are worth no more than `a` cycles. -/
theorem convert_ceil_worth_le (hn : 0 < num) :
    (convert .ceil a num den).ticks * den + (convert .ceil a num den).acc * num ≤ a * num := by
  have htaken : (convert .ceil a num den).ticks * den ≤ takenCycles .ceil a num den * num :=
    le_ceilDiv_mul hn _
  have hsum := convert_acc_mul_add_taken_mul .ceil a den hn
  omega

/-- R72 item 5: under Floor they are worth no less. -/
theorem le_convert_floor_worth (hn : 0 < num) :
    a * num ≤ (convert .floor a num den).ticks * den + (convert .floor a num den).acc * num := by
  have htaken : takenCycles .floor a num den * num ≤ (convert .floor a num den).ticks * den :=
    Nat.div_mul_le_self _ _
  have hsum := convert_acc_mul_add_taken_mul .floor a den hn
  omega

/-- Where the division is exact, both roundings are the quotient. -/
theorem divRound_mul_of_dvd {b c : Nat} (hb : 0 < b) (h : b ∣ c) : divRound r c b * b = c := by
  obtain ⟨q, rfl⟩ := h
  cases r with
  | ceil =>
    have hle : ceilDiv (b * q) b ≤ q := (ceilDiv_le_iff hb _ _).2 (Nat.mul_comm b q).le
    have hge := le_ceilDiv_mul hb (b * q)
    exact le_antisymm ((Nat.mul_le_mul_right b hle).trans_eq (Nat.mul_comm q b)) hge
  | floor => exact Nat.div_mul_cancel (Dvd.intro q rfl)

variable {den}

/-- R72 item 4: with an exact ratio the delivered ticks are worth a whole number of cycles. -/
theorem dvd_ticks_mul_den (h : num ∣ den ∨ den ∣ num) : num ∣ (convert r a num den).ticks * den := by
  obtain h | h := h
  · exact Dvd.dvd.mul_left h _
  · have hall : (convert r a num den).ticks * den = a * num :=
      Nat.div_mul_cancel (Dvd.dvd.mul_left h a)
    exact hall ▸ Nat.dvd_mul_left num a

/-- R72 item 4: with an exact ratio nothing is created or lost, under either rounding. -/
theorem convert_exact_worth (hn : 0 < num) (h : num ∣ den ∨ den ∣ num) :
    (convert r a num den).ticks * den + (convert r a num den).acc * num = a * num := by
  have htaken : takenCycles r a num den * num = (convert r a num den).ticks * den :=
    divRound_mul_of_dvd r hn (dvd_ticks_mul_den r a h)
  rw [← convert_acc_mul_add_taken_mul r a den hn, htaken, Nat.add_comm]

/-- R72 item 4: with an exact ratio less than one tick is carried, under either rounding. -/
theorem convert_exact_acc_mul_lt (hn : 0 < num) (hd : 0 < den) (h : num ∣ den ∨ den ∣ num) :
    (convert r a num den).acc * num < den := by
  have hworth := convert_exact_worth r a hn h
  have hticks : a * num < ((convert r a num den).ticks + 1) * den :=
    (Nat.div_lt_iff_lt_mul hd).1 (Nat.lt_succ_self _)
  rw [Nat.add_mul] at hticks
  omega

/-- R72 item 2: less than one tick's worth of cycles is carried unchanged. -/
theorem convert_of_mul_lt (hn : 0 < num) (h : a * num < den) : convert r a num den = ⟨0, a⟩ := by
  have hticks : a * num / den = 0 := Nat.div_eq_of_lt h
  have htaken : divRound r 0 num = 0 := Nat.le_zero.1 (divRound_le r hn (Nat.zero_le _))
  rw [convert, hticks, Nat.zero_mul, htaken, Nat.sub_zero]

end

/-- Settles O14. -/
theorem convertRoundsAsParameterSays : Obligations.ConvertRoundsAsParameterSays := by
  intro r a num den hn hd T
  refine ⟨Nat.div_mul_le_self _ _, (Nat.div_lt_iff_lt_mul hd).1 (Nat.lt_succ_self _), takenCycles r a num den,
    convert_acc_add_taken r a den hn, ?_, ?_⟩
  · rintro rfl
    exact ⟨le_ceilDiv_mul hn _, ceilDiv_mul_lt hn _⟩
  · rintro rfl
    exact ⟨Nat.div_mul_le_self _ _, (Nat.div_lt_iff_lt_mul hn).1 (Nat.lt_succ_self _)⟩

/-! ## The same `ACTUALIZE` again -/

/-- R48: an `ACTUALIZE` with no time elapsed and less than a tick carried changes no field. -/
theorem exec_actualize_quiet {t : State} {num den : Word} (hrun : t.running = true)
    (hratio : Configured num den) (hrem : RemainderBelowTick num den t)
    (hdown : t.mode = .countdown → t.count ≠ 0) (hup : t.mode ≠ .countdown → WithinSpan t) :
    exec (.actualize t.last num den) t = .next { t with out := ⟨.ok, false, 0, 0⟩ } := by
  have hcycles : cyclesAt t.last t = t.acc.toNat := by simp [cyclesAt]
  have hconv : conversion t.last num den t = ⟨0, t.acc.toNat⟩ := by
    rw [conversion, hcycles]
    exact convert_of_mul_lt _ _ (toNat_pos_of_ne_zero hratio.1) hrem
  have hadv : advanced t.last num den t = ⟨t.count.toNat, false⟩ := by
    rw [advanced, hconv]
    exact advance_no_ticks (fun hmode => (toNat_pos_of_ne_zero (hdown hmode)).ne') hup
  have hfit : cyclesAt t.last t ≤ MAX64 := hcycles.trans_le (toNat_le_MAX64 t.acc)
  rw [exec_actualize_of_advanced (BitVec.le_refl _) hrun hfit hratio hadv (toNat_le_MAX64 t.count), hconv,
    BitVec.ofNat_toNat, BitVec.ofNat_toNat]
  rfl

/-- Settles O17: the first `ACTUALIZE` leaves a remainder below a tick (O15) and, counting up, a count
inside the span (O18). -/
theorem repeatedActualizeIsQuiet : Obligations.RepeatedActualizeIsQuiet := by
  intro s t now num den hceil hrun hratio h hok hquiet
  have hrem : RemainderBelowTick num den t :=
    ceilKeepsRemainderBelowTick s t now num den hceil hrun hratio h hok
  have hspan (hmode : s.mode ≠ .countdown) : WithinSpan t :=
    ((actualizeKeepsAndRestoresSpan s t now num den h).2 hmode hrun hratio hok).1
  obtain ⟨-, -, ht⟩ := actualize_converted hrun hratio h hok
  have hlast : t.last = now := by rw [ht]
  have hmode : t.mode = s.mode := by rw [ht]
  have hrunning : t.running = s.running := by rw [ht]
  rw [← hlast]
  exact exec_actualize_quiet (hrunning.trans hrun) hratio hrem
    (fun hdown hcount => hquiet ⟨hdown, hcount⟩) (hmode ▸ hspan)

end Sys2Proof.Machine

end

/-! # Tick totals of a list of `ACTUALIZE`s (R72, R86) -/

section

namespace Sys2Proof.Machine

variable {s t : State} {now num den : Word}

/-- `t` follows `s` by a completed `ACTUALIZE` that converted: what tick totals depend on. -/
structure ConvertedTo (num den : Word) (s t : State) : Prop where
  running : t.running = true
  remRound : t.remRound = s.remRound
  last_le : s.last.toNat ≤ t.last.toNat
  ticks : t.out.ticks.toNat = (conversion t.last num den s).ticks
  acc : t.acc.toNat = (conversion t.last num den s).acc

theorem convertedTo_of_exec (hratio : Configured num den) (hrun : s.running = true)
    (h : exec (.actualize now num den) s = .next t) (hok : t.out.err = .ok) : ConvertedTo num den s t := by
  have hlast : s.last ≤ t.last := exec_last_le h
  obtain ⟨hfit, -, rfl⟩ := actualize_converted hrun hratio h hok
  have hticks : (conversion now num den s).ticks < 2 ^ 128 :=
    convert_ticks_lt _ _ (Nat.lt_of_le_pred (by decide) hfit) num.isLt
  exact ⟨hrun, rfl, hlast, (BitVec.toNat_ofNat _ _).trans (Nat.mod_eq_of_lt hticks),
    toNat_ofNat_of_le_MAX64 ((convert_acc_le _ _ _ _).trans hfit)⟩

theorem ticksAlong_cons_some {rest : List Word} {n : Nat} {u : State}
    (h : ticksAlong num den (now :: rest) s = some (n, u)) :
    ∃ t m, exec (.actualize now num den) s = .next t ∧ t.out.err = .ok ∧
      ticksAlong num den rest t = some (m, u) ∧ n = t.out.ticks.toNat + m := by
  rw [ticksAlong] at h
  cases hexec : exec (.actualize now num den) s with
  | next t =>
    simp only [hexec, Option.ite_none_right_eq_some, Option.map_eq_some_iff, Prod.exists,
      Prod.mk.injEq] at h
    obtain ⟨hok, m, u', htail, hn, rfl⟩ := h
    exact ⟨t, m, rfl, hok, htail, hn.symm⟩
  | fault f => cases f
  | refused r => simp [hexec] at h

/-- Induction over a list of completed `ACTUALIZE`s on a running counter: a relation between the first
state, the tick total and the last state holds when it holds of no `ACTUALIZE` and each conversion in
front keeps it. -/
theorem ticksAlong_induction {R : State → Nat → State → Prop} (hratio : Configured num den)
    (nil : ∀ s, R s 0 s)
    (cons : ∀ {s t u : State} {m : Nat}, ConvertedTo num den s t → R t m u → R s (t.out.ticks.toNat + m) u)
    {times : List Word} {n : Nat} (hrun : s.running = true)
    (h : ticksAlong num den times s = some (n, t)) : R s n t := by
  induction times generalizing s n with
  | nil =>
    cases h
    exact nil _
  | cons now rest ih =>
    obtain ⟨u, m, hexec, hok, htail, rfl⟩ := ticksAlong_cons_some h
    have hconv : ConvertedTo num den s u := convertedTo_of_exec hratio hrun hexec hok
    exact cons hconv (ih hconv.running htail)

/-- How the worth of what `n` ticks delivered and `t` carries compares with the worth of the cycles that
`s` carried and that have elapsed since (R72 item 5). -/
def WorthRelated (rel : Nat → Nat → Prop) (num den : Word) (s : State) (n : Nat) (t : State) : Prop :=
  s.last.toNat ≤ t.last.toNat ∧
    rel (n * den.toNat + t.acc.toNat * num.toNat)
      ((s.acc.toNat + (t.last.toNat - s.last.toNat)) * num.toNat)

section

variable {rel : Nat → Nat → Prop} (htrans : ∀ ⦃a b c⦄, rel a b → rel b c → rel a c)
  (hadd : ∀ c ⦃a b⦄, rel a b → rel (c + a) (c + b))

include htrans hadd

/-- A conversion in front of a chopping: the cycles it carries are those the chopping starts with. -/
theorem WorthRelated.cons {u : State} {m : Nat} (hconv : ConvertedTo num den s t)
    (hworth : rel (t.out.ticks.toNat * den.toNat + t.acc.toNat * num.toNat)
      (cyclesAt t.last s * num.toNat))
    (htail : WorthRelated rel num den t m u) : WorthRelated rel num den s (t.out.ticks.toNat + m) u := by
  obtain ⟨hlast, htail⟩ := htail
  have hlast' := hconv.last_le
  have hcycles : s.acc.toNat + (u.last.toNat - s.last.toNat) =
      u.last.toNat - t.last.toNat + cyclesAt t.last s := by
    unfold cyclesAt
    omega
  have hswap : t.out.ticks.toNat * den.toNat +
        (t.acc.toNat + (u.last.toNat - t.last.toNat)) * num.toNat =
      (u.last.toNat - t.last.toNat) * num.toNat +
        (t.out.ticks.toNat * den.toNat + t.acc.toNat * num.toNat) := by ring
  refine ⟨hlast'.trans hlast, ?_⟩
  rw [hcycles, Nat.add_mul, Nat.add_mul, Nat.add_assoc]
  exact htrans (hadd _ htail) (hswap ▸ hadd _ hworth)

/-- The potential argument of R72 item 5, for `≤`, `=` and `≥` at once: as every conversion's worth compares
with the cycles it was given, so does a whole chopping's. -/
theorem ticksAlong_worthRelated (hrefl : ∀ a, rel a a)
    (hworth : ∀ a, rel ((convert s.remRound a num.toNat den.toNat).ticks * den.toNat +
      (convert s.remRound a num.toNat den.toNat).acc * num.toNat) (a * num.toNat))
    (hratio : Configured num den) {times : List Word} {n : Nat} (hrun : s.running = true)
    (h : ticksAlong num den times s = some (n, t)) : WorthRelated rel num den s n t := by
  refine ticksAlong_induction
    (R := fun s' m u => s'.remRound = s.remRound → WorthRelated rel num den s' m u) hratio ?_ ?_ hrun h rfl
  · intro s' _
    exact ⟨Nat.le_refl _, by simpa using hrefl _⟩
  · intro s' t' u m hconv ih hround
    refine .cons htrans hadd hconv ?_ (ih (hconv.remRound.trans hround))
    rw [hconv.ticks, hconv.acc, conversion, hround]
    exact hworth _

end

/-- With an exact ratio a remainder below a tick stays below it (R72 item 4). -/
theorem ticksAlong_exact_remainder (hratio : Configured num den) (hexact : ExactRatio num den)
    {times : List Word} {n : Nat} (hrun : s.running = true)
    (hrem : RemainderBelowTick num den s) (h : ticksAlong num den times s = some (n, t)) :
    RemainderBelowTick num den t := by
  refine ticksAlong_induction
    (R := fun s' _ u => RemainderBelowTick num den s' → RemainderBelowTick num den u)
    hratio (fun _ hrem => hrem) ?_ hrun h hrem
  intro s' t' u _ hconv ih _
  apply ih
  rw [RemainderBelowTick, hconv.acc]
  exact convert_exact_acc_mul_lt _ _ (toNat_pos_of_ne_zero hratio.1) (toNat_pos_of_ne_zero hratio.2) hexact

/-- Settles O21. -/
theorem ceilNeverCreatesTicks : Obligations.CeilNeverCreatesTicks := by
  intro s t num den times n hceil hrun hacc hratio h
  have hworth : n * den.toNat + t.acc.toNat * num.toNat ≤ (t.last.toNat - s.last.toNat) * num.toNat := by
    have := ticksAlong_worthRelated (rel := (· ≤ ·)) (fun _ _ _ => Nat.le_trans)
      (fun c _ _ hle => Nat.add_le_add_left hle c) Nat.le_refl
      (fun a => hceil ▸ convert_ceil_worth_le a _ (toNat_pos_of_ne_zero hratio.1)) hratio hrun h
    simpa [hacc] using this.2
  refine ⟨?_, hworth⟩
  exact (Nat.le_div_iff_mul_le (toNat_pos_of_ne_zero hratio.2)).2 ((Nat.le_add_right _ _).trans hworth)

/-- Settles O22. -/
theorem floorNeverLosesCycles : Obligations.FloorNeverLosesCycles := by
  intro s t num den times n hfloor hrun hratio h
  exact (ticksAlong_worthRelated (rel := (· ≥ ·)) (fun _ _ _ hab hbc => Nat.le_trans hbc hab)
    (fun c _ _ hle => Nat.add_le_add_left hle c) Nat.le_refl
    (fun a => hfloor ▸ le_convert_floor_worth a _ (toNat_pos_of_ne_zero hratio.1)) hratio hrun h).2

/-- Settles O20: nothing is created or lost, and what is carried at the end is less than a tick. -/
theorem exactRatioNeverDrifts : Obligations.ExactRatioNeverDrifts := by
  intro s t num den times n hrun hacc hratio hexact h
  have hden : 0 < den.toNat := toNat_pos_of_ne_zero hratio.2
  have hworth : n * den.toNat + t.acc.toNat * num.toNat = (t.last.toNat - s.last.toNat) * num.toNat := by
    have := ticksAlong_worthRelated (rel := Eq) (fun _ _ _ => Eq.trans)
      (fun c _ _ heq => congrArg (c + ·) heq) Eq.refl
      (fun a => convert_exact_worth _ a (toNat_pos_of_ne_zero hratio.1) hexact) hratio hrun h
    simpa [hacc] using this.2
  have hstart : RemainderBelowTick num den s := by simpa [hacc] using hden
  have hrem : t.acc.toNat * num.toNat < den.toNat := ticksAlong_exact_remainder hratio hexact hrun hstart h
  rw [← hworth, Nat.mul_comm n, Nat.mul_add_div hden, Nat.div_eq_of_lt hrem, Nat.add_zero]

/-- A running Sawtooth counter whose `REM_ROUND` is Ceil. -/
def ceilCounter : State := { State.created ⟨0, 9, .sawtooth, 0, .ceil⟩ with running := true }

/-- Settles O23: at 5/3 each single cycle delivers one tick and loses 2/3 of one, so three cycles total 3
ticks where 5 are due. -/
theorem inexactRatioDriftsBeyondOneTick : Obligations.InexactRatioDriftsBeyondOneTick :=
  ⟨ceilCounter, { ceilCounter with count := 3, last := 3, out := ⟨.ok, false, 1, 0⟩ }, 5, 3, [1, 2, 3], 3,
    rfl, rfl, rfl, by decide, by decide, by decide⟩

end Sys2Proof.Machine

end

/-! # The host's queue (R102)

An operation that answers stands in one of three relations to the deadline: it keeps it, it leaves none, or
it is a `REARM` that armed one. In each the host's calls turn the entry before it into the entry after. -/

section

namespace Sys2Proof.Machine

variable {s t : State} {i : Instr} {now num den : Word}

theorem hostEntry_eq_none_iff : hostEntry s = none ↔ s.armed = false := by
  simp [hostEntry]

theorem hostEntry_of_armed (h : s.armed = true) : hostEntry s = some s.target := if_pos h

/-- The calls `i` stands for are ones the host can take, and they lead from the entry of `s` to that of
`t`. -/
def HostMirrors (i : Instr) (s t : State) : Prop :=
  applyHostCalls (hostCalls i s t) (hostEntry s) = some (hostEntry t)

namespace HostMirrors

/-- No call is due where nothing about the deadline changes, unless a `REARM` completed. -/
theorem of_kept (harmed : t.armed = s.armed) (htarget : t.target = s.target)
    (hi : (∃ now num den, i = .rearm now num den) → t.out.err ≠ .ok) : HostMirrors i s t := by
  have hentry : hostEntry t = hostEntry s := by rw [hostEntry, hostEntry, harmed, htarget]
  have hcalls : hostCalls i s t = [] := by
    cases hs : s.armed with
    | false => simp only [hostCalls, harmed, hs]
    | true =>
      cases i with
      | rearm now num den => simp only [hostCalls, harmed, hs, if_neg (hi ⟨now, num, den, rfl⟩)]
      | _ => simp only [hostCalls, harmed, hs]
  rw [HostMirrors, hcalls, hentry, applyHostCalls]

/-- One call, which one depends on who ended the deadline, removes an entry that was there. -/
theorem of_disarmed (harmed : t.armed = false) : HostMirrors i s t := by
  rw [HostMirrors, hostEntry_eq_none_iff.2 harmed]
  cases hs : s.armed with
  | false =>
    have hcalls : hostCalls i s t = [] := by simp only [hostCalls, harmed, hs]
    rw [hcalls, hostEntry_eq_none_iff.2 hs, applyHostCalls]
  | true =>
    have hcalls : hostCalls i s t = [.popped] ∨ hostCalls i s t = [.cancel] := by
      cases i <;> simp [hostCalls, harmed, hs]
    obtain hcalls | hcalls := hcalls <;>
      simp [hcalls, hostEntry_of_armed hs, applyHostCalls, applyHostCall]

/-- A completed `REARM` cancels an entry that was there before it arms its own (R96). -/
theorem rearm_of_armed (harmed : t.armed = true) (hok : t.out.err = .ok) :
    HostMirrors (.rearm now num den) s t := by
  rw [HostMirrors, hostEntry_of_armed harmed]
  cases hs : s.armed with
  | false =>
    simp [hostCalls, harmed, hs, hostEntry_eq_none_iff.2 hs, applyHostCalls, applyHostCall]
  | true =>
    simp [hostCalls, harmed, hs, hok, hostEntry_of_armed hs, applyHostCalls, applyHostCall]

theorem of_raises (h : Raises s t) : HostMirrors i s t := by
  have herr : t.out.err ≠ .ok := h.err_ne_ok
  obtain ⟨e, -, rfl⟩ := h
  exact of_kept rfl rfl fun _ => herr

theorem of_completes (h : Completes s i t) : HostMirrors i s t := by
  cases h with
  | rearmStopped => exact of_disarmed rfl
  | rearmUnconfigured => exact of_disarmed rfl
  | rearmArmed => exact rearm_of_armed rfl rfl
  | expire => exact of_disarmed rfl
  | cancel => exact of_disarmed rfl
  | stop => exact of_disarmed rfl
  | _ => exact of_kept rfl rfl fun ⟨_, _, _, hi⟩ => Instr.noConfusion hi

end HostMirrors

/-- Settles O39. -/
theorem hostQueueMirrorsDeadline : Obligations.HostQueueMirrorsDeadline :=
  fun _ _ _ h => (exec_next_cases h).elim HostMirrors.of_completes HostMirrors.of_raises

end Sys2Proof.Machine

end

/-! # `REARM`, `CANCEL` and `EXPIRE`, case by case (R90 to R98)

One equation for each way `REARM` can go, and for arming. -/

section

namespace Sys2Proof.Machine

section

variable {s : State} {now num den : Word}

/-- R91: `REARM` checks its `now` first. -/
theorem exec_rearm_regression (h : now < s.last) :
    exec (.rearm now num den) s = raise .timeRegression s := if_pos h

variable (hlast : s.last ≤ now)

include hlast

/-- R92: a stopped counter has no deadline. -/
theorem exec_rearm_stopped (hrun : s.running = false) :
    exec (.rearm now num den) s = completeOk { s with armed := false } := by
  rw [exec, execRearm, if_neg (BitVec.not_lt.2 hlast), if_pos hrun]

variable (hrun : s.running = true)

include hrun

/-- R92: nor has one whose clock is not configured. -/
theorem exec_rearm_unconfigured (hratio : unconfigured num den = true) :
    exec (.rearm now num den) s = completeOk (State.log { s with armed := false } stallLogged) := by
  rw [exec, execRearm, if_neg (BitVec.not_lt.2 hlast), if_neg (by simp [hrun]), if_pos hratio]

/-- R93 to R95: a running counter with a configured ratio arms. -/
theorem exec_rearm_configured (hratio : unconfigured num den = false) :
    exec (.rearm now num den) s = armAt (deadline now num den s) s := by
  rw [exec, execRearm, if_neg (BitVec.not_lt.2 hlast), if_neg (by simp [hrun]), if_neg (by simp [hratio])]

end

variable {s t : State} {n : Nat} {now num den : Word}

theorem armAt_of_le (h : n ≤ MAX64) :
    armAt n s = .next { s with armed := true, target := BitVec.ofNat 64 n, out := .plain } :=
  if_neg (Nat.not_lt.2 h)

theorem armAt_of_lt (h : MAX64 < n) : armAt n s = raise .overflow s := if_pos h

/-- A completed `REARM` on a running counter with a configured ratio has armed. -/
theorem rearm_armed (hrun : s.running = true) (hratio : Configured num den)
    (h : exec (.rearm now num den) s = .next t) (hok : t.out.err = .ok) :
    s.last ≤ now ∧ deadline now num den s ≤ MAX64 ∧
      t = { s with armed := true, target := BitVec.ofNat 64 (deadline now num den s), out := .plain } := by
  have hconf : unconfigured num den = false := (unconfigured_eq_false_iff num den).2 hratio
  cases completes_of_err_ok h hok with
  | rearmStopped _ hstop => simp [hrun] at hstop
  | rearmUnconfigured _ _ hun => simp [hconf] at hun
  | rearmArmed hlast _ _ hfit => exact ⟨hlast, hfit, rfl⟩

/-! ## The same `REARM` again -/

/-- A raise sets a sticky bit, which setting again leaves. -/
theorem raise_idem {e : Err} (h : raise e s = .next t) : raise e t = .next t := by
  cases (raise_next_iff e s t).1 h
  simp [raise_next_iff, BitVec.or_assoc]

theorem armAt_idem (h : armAt n s = .next t) : armAt n t = .next t := by
  obtain ⟨hbig, -⟩ | ⟨hfit, rfl⟩ := armAt_next_cases h
  · rw [armAt_of_lt hbig] at h ⊢
    exact raise_idem h
  · exact armAt_of_le hfit

/-- `REARM` writes nothing that decides its case or its deadline. -/
theorem rearm_keeps_inputs (h : exec (.rearm now num den) s = .next t) :
    t.last = s.last ∧ t.running = s.running ∧ deadline now num den t = deadline now num den s := by
  obtain hc | ⟨e, -, rfl⟩ := exec_next_cases h
  · cases hc <;> exact ⟨rfl, rfl, rfl⟩
  · exact ⟨rfl, rfl, rfl⟩

/-- Settles O33: the second `REARM` goes the way of the first, and each way is idempotent. -/
theorem rearmIdempotent : Obligations.RearmIdempotent := by
  intro s t now num den h
  obtain ⟨hl, hr, hd⟩ := rearm_keeps_inputs h
  obtain ⟨hlast, h⟩ | ⟨hlast, hrun, ht⟩ | ⟨hlast, hrun, hratio, ht⟩ | ⟨hlast, hrun, hratio, h⟩ :=
    execRearm_next_cases h
  all_goals rw [← hl] at hlast
  · rw [exec_rearm_regression hlast]
    exact raise_idem h
  · rw [exec_rearm_stopped (BitVec.not_lt.1 hlast) (hr.trans hrun), completeOk_next_iff, ht]
  · rw [exec_rearm_unconfigured (BitVec.not_lt.1 hlast) (hr.trans hrun) hratio, completeOk_next_iff, ht]
    simp [State.log, BitVec.or_assoc]
  · rw [exec_rearm_configured (BitVec.not_lt.1 hlast) (hr.trans hrun) hratio, hd]
    exact armAt_idem h

/-! ## The operations that end a deadline -/

/-- Settles O30. -/
theorem rearmCancels : Obligations.RearmCancels := by
  intro s now num den hlast
  refine ⟨fun hrun => exec_rearm_stopped hlast hrun, fun hrun hratio => ?_⟩
  have hun : unconfigured num den = true := by simpa [unconfigured] using hratio
  exact exec_rearm_unconfigured hlast hrun hun

theorem exec_cancel (s : State) : exec .cancel s = completeOk { s with armed := false } := rfl

theorem disarm_of_not_armed (h : s.armed = false) : { s with armed := false } = s := by rw [← h]

/-- Settles O34. -/
theorem cancelDisarms : Obligations.CancelDisarms := by
  intro s
  refine ⟨exec_cancel s, fun harmed => ?_⟩
  rw [exec_cancel, disarm_of_not_armed harmed]
  rfl

/-- Settles O35: neither of the two checks of `EXPIRE` raises. -/
theorem expireConsumesDueDeadline : Obligations.ExpireConsumesDueDeadline := by
  intro s now hlast harmed hdue
  have hdeadline : ¬ (s.armed = false ∨ now < s.target) :=
    not_or.2 ⟨by simp [harmed], BitVec.not_lt.2 hdue⟩
  rw [exec, execExpire, if_neg (BitVec.not_lt.2 hlast), if_neg hdeadline]
  rfl

end Sys2Proof.Machine

end

/-! # The wait and the armed deadline (R93 to R95, R100, R101) -/

section

namespace Sys2Proof.Machine

/-! ## The wait -/

section

variable {ticks num den acc : Nat}

/-- R94: waiting `w` cycles is enough exactly when `w` is at least 1 and the conversion then yields the
ticks. -/
theorem waitCycles_le_iff (hn : 0 < num) (hd : 0 < den) (w : Nat) :
    waitCycles ticks num den acc ≤ w ↔ 1 ≤ w ∧ ticks ≤ (acc + w) * num / den := by
  rw [waitCycles, Nat.max_le, Nat.sub_le_iff_le_add', ceilDiv_le_iff hn, Nat.le_div_iff_mul_le hd]

/-- Settles O32. -/
theorem waitIsLeastSufficient : Obligations.WaitIsLeastSufficient := by
  intro ticks num den acc hn hd
  obtain ⟨hone, hyields⟩ := (waitCycles_le_iff hn hd _).1 (Nat.le_refl (waitCycles ticks num den acc))
  exact ⟨hone, hyields, fun w hw hticks => (waitCycles_le_iff hn hd w).2 ⟨hw, hticks⟩⟩

/-- With less than one tick carried the clamps of R94 do nothing: the cycles carried and those waited make
up exactly the ceiling. -/
theorem acc_add_waitCycles (hn : 0 < num) (hticks : 0 < ticks) (hrem : acc * num < den) :
    acc + waitCycles ticks num den acc = ceilDiv (ticks * den) num := by
  have hshort : acc < ceilDiv (ticks * den) num := by
    by_contra hle
    have hworth : ticks * den ≤ acc * num := (ceilDiv_le_iff hn _ _).1 (Nat.not_lt.1 hle)
    have hone : den ≤ ticks * den := Nat.le_mul_of_pos_left den hticks
    omega
  rw [waitCycles]
  omega

/-- At no more than one tick a cycle, the least number of cycles that yields the ticks yields no more. -/
theorem ceilDiv_mul_div (hn : 0 < num) (hle : num ≤ den) :
    ceilDiv (ticks * den) num * num / den = ticks := by
  have hlow : ticks * den ≤ ceilDiv (ticks * den) num * num := le_ceilDiv_mul hn _
  have hhigh : ceilDiv (ticks * den) num * num < ticks * den + num := ceilDiv_mul_lt hn _
  refine Nat.div_eq_of_lt_le hlow ?_
  rw [Nat.add_mul]
  omega

end

/-- The ceiling is the only integer between its bounds. -/
theorem ceilDiv_eq_of_bounds {a b m : Nat} (hb : 0 < b) (hle : a ≤ m * b) (hlt : m * b < a + b) :
    ceilDiv a b = m := by
  refine le_antisymm ((ceilDiv_le_iff hb a m).2 hle) (Nat.lt_succ_iff.1 (lt_of_mul_lt_mul_right ?_ b.zero_le))
  have hreach := le_ceilDiv_mul hb a
  rw [Nat.succ_mul]
  omega

/-! ## The ticks to arm -/

theorem ticksToArm_countdown (limit count : Nat) :
    ticksToArm .countdown limit count = if count = 0 then limit else count := rfl

section

variable {mode : Mode} (hmode : mode ≠ .countdown) (limit count : Nat)

include hmode

theorem remainingTicks_of_ne_countdown :
    remainingTicks mode limit count = effectiveLimit mode limit - count := by
  cases mode with
  | countdown => exact absurd rfl hmode
  | sawtooth => rfl
  | triangle => rfl

theorem nextPeriodTicks_of_ne_countdown : nextPeriodTicks mode limit = effectiveLimit mode limit + 1 := by
  cases mode with
  | countdown => exact absurd rfl hmode
  | sawtooth => rfl
  | triangle => rfl

/-- R90, R93 for the modes that count up: to the effective limit, or one whole period from there. -/
theorem ticksToArm_of_ne_countdown :
    ticksToArm mode limit count = if count < effectiveLimit mode limit
      then effectiveLimit mode limit - count else effectiveLimit mode limit + 1 := by
  rw [ticksToArm, remainingTicks_of_ne_countdown hmode, nextPeriodTicks_of_ne_countdown hmode]
  split_ifs <;> omega

end

/-- R94 over the integers: `m` is the ceiling, and the two clamps are one maximum. -/
theorem waitCycles_eq_toNat {ticks num den acc m : Nat} (hn : 0 < num) (hle : ticks * den ≤ m * num)
    (hlt : m * num < ticks * den + num) :
    waitCycles ticks num den acc = (max 1 ((m : Int) - (acc : Int))).toNat := by
  rw [waitCycles, ceilDiv_eq_of_bounds hn hle hlt]
  omega

/-- Settles O31. -/
theorem rearmArmsAtDeadline : Obligations.RearmArmsAtDeadline := by
  intro s now num den hlast hrun hratio E n m hle hlt w
  have hticks : ticksToArm s.mode s.limit.toNat s.count.toNat = n := by
    cases hmode : s.mode with
    | countdown => simp only [n, hmode, ticksToArm_countdown]
    | sawtooth => simp only [n, E, hmode, ticksToArm_of_ne_countdown (mode := .sawtooth) Mode.noConfusion]
    | triangle => simp only [n, E, hmode, ticksToArm_of_ne_countdown (mode := .triangle) Mode.noConfusion]
  have hwait : deadline now num den s = now.toNat + w.toNat := by
    rw [deadline, hticks, waitCycles_eq_toNat (toNat_pos_of_ne_zero hratio.1) hle hlt]
  rw [exec_rearm_configured hlast hrun ((unconfigured_eq_false_iff num den).2 hratio), hwait]
  exact ⟨armAt_of_le, armAt_of_lt⟩

/-! ## The armed deadline and the boundary -/

/-- Settles O37: `target` is the wait after `last`, so an `ACTUALIZE` comes at or after it exactly when
`count` ticks have passed; at `last` itself none have. -/
theorem countdownDeadlineIsBoundary : Obligations.CountdownDeadlineIsBoundary := by
  intro s t num den now hmode hrun hcount hratio hrem h hok hlast hfit
  have hn : 0 < num.toNat := toNat_pos_of_ne_zero hratio.1
  have hd : 0 < den.toNat := toNat_pos_of_ne_zero hratio.2
  have hpos : 0 < s.count.toNat := toNat_pos_of_ne_zero hcount
  have hticks : ticksToArm s.mode s.limit.toNat s.count.toNat = s.count.toNat := by
    rw [hmode, ticksToArm_countdown, if_neg hpos.ne']
  obtain ⟨-, hdeadline, rfl⟩ := rearm_armed hrun hratio h hok
  refine ⟨_, actualizeCountdownCountsDown _ now num den hlast hrun hratio hmode hfit, rfl, ?_⟩
  have htarget : BitVec.ofNat 64 (deadline s.last num den s) ≤ now ↔
      waitCycles s.count.toNat num.toNat den.toNat s.acc.toNat ≤ now.toNat - s.last.toNat := by
    rw [BitVec.le_def, toNat_ofNat_of_le_MAX64 hdeadline, deadline, hticks]
    have hle : s.last.toNat ≤ now.toNat := hlast
    omega
  have hnow : s.count.toNat ≤ cyclesAt now s * num.toNat / den.toNat →
      1 ≤ now.toNat - s.last.toNat := by
    intro hdue
    by_contra hzero
    have hcycles : cyclesAt now s = s.acc.toNat := by rw [cyclesAt]; omega
    rw [hcycles, Nat.div_eq_of_lt hrem] at hdue
    omega
  rw [htarget, waitCycles_le_iff hn hd]
  exact decide_eq_true_iff.trans ⟨fun hdue => ⟨hnow hdue, hdue⟩, And.right⟩

/-- Ticks that end inside the span are added without an event (R79, R80). -/
theorem advance_of_add_le {mode : Mode} (hmode : mode ≠ .countdown) {limit count ticks : Nat}
    (hspan : effectiveLimit mode limit ≠ 0) (h : count + ticks ≤ effectiveLimit mode limit) :
    advance mode limit count ticks = ⟨count + ticks, false⟩ := by
  cases mode with
  | countdown => exact absurd rfl hmode
  | sawtooth => exact (if_neg hspan).trans (if_neg (Nat.not_lt.2 h))
  | triangle => exact (if_neg hspan).trans (if_neg (Nat.not_lt.2 h))

/-- Settles O38: at `target` the conversion yields exactly the remaining ticks. -/
theorem upwardDeadlineIsOneTickEarly : Obligations.UpwardDeadlineIsOneTickEarly := by
  intro s t num den hmode hrun hbelow hspan hratio hle hrem h hok hfit
  have hn : 0 < num.toNat := toNat_pos_of_ne_zero hratio.1
  obtain ⟨-, hdeadline, rfl⟩ := rearm_armed hrun hratio h hok
  set E := effectiveLimit s.mode s.limit.toNat
  set target := BitVec.ofNat 64 (deadline s.last num den s)
  have htarget : target.toNat =
      s.last.toNat + waitCycles (E - s.count.toNat) num.toNat den.toNat s.acc.toNat := by
    rw [toNat_ofNat_of_le_MAX64 hdeadline, deadline, ticksToArm_of_ne_countdown hmode, if_pos hbelow]
  have hcycles : cyclesAt target s = ceilDiv ((E - s.count.toNat) * den.toNat) num.toNat := by
    rw [cyclesAt, htarget, Nat.add_sub_cancel_left, acc_add_waitCycles hn (Nat.sub_pos_of_lt hbelow) hrem]
  have hticks : (conversion target num den s).ticks = E - s.count.toNat := by
    rw [conversion, hcycles]
    exact ceilDiv_mul_div hn hle
  have hcount : s.count.toNat + (E - s.count.toNat) = E := Nat.add_sub_cancel' hbelow.le
  have hadv : advanced target num den s = ⟨E, false⟩ := by
    rw [advanced, hticks, advance_of_add_le hmode (Nat.ne_zero_of_lt hbelow) hcount.le, hcount]
  have hlast : s.last ≤ target := by
    rw [BitVec.le_def, htarget]
    exact Nat.le_add_right _ _
  have hexec := exec_actualize_of_advanced (s := { s with armed := true, target := target, out := .plain })
    hlast hrun hfit hratio hadv hspan
  exact ⟨_, hexec, rfl, rfl, toNat_ofNat_of_le_MAX64 hspan⟩

end Sys2Proof.Machine

end

/-! # Run control, configuration and read-out, case by case (R105 to R112)

One equation for each way an operation of this family can go once its `now` is no regression. -/

section

namespace Sys2Proof.Machine

variable {s : State} {now : Word}

/-! ## Run control and configuration -/

/-- R105: `START` of a stopped counter. -/
theorem exec_start_stopped (hlast : s.last ≤ now) (hrun : s.running = false) :
    exec (.start now) s = completeOk { s with running := true, last := now } := by
  rw [exec, execStart, if_neg (BitVec.not_lt.2 hlast), if_pos hrun]

/-- R105: `START` of a running counter. -/
theorem exec_start_running (hlast : s.last ≤ now) (hrun : s.running = true) :
    exec (.start now) s = completeOk s := by
  rw [exec, execStart, if_neg (BitVec.not_lt.2 hlast), if_neg (by simp [hrun])]

theorem exec_stop (s : State) : exec .stop s = completeOk { s with running := false, armed := false } := rfl

/-- R107. -/
theorem exec_reset (hlast : s.last ≤ now) :
    exec (.reset now) s = completeOk { s with count := 0, acc := 0, last := now } := by
  rw [exec, execReset, if_neg (BitVec.not_lt.2 hlast)]

theorem exec_setlimit (v : Word) (s : State) : exec (.setlimit v) s = completeOk { s with limit := v } := rfl

theorem exec_load (v : Word) (s : State) : exec (.load v) s = completeOk { s with count := v } := rfl

/-- R109 for a tag that names a mode; `exec_of_illFormed` is the other case. -/
theorem exec_setmode {tag : BitVec 2} {m : Mode} (htag : modeOfTag tag = some m) (s : State) :
    exec (.setmode tag) s = completeOk { s with mode := m } := by
  rw [exec, execSetmode, htag]

/-- Settles O40. -/
theorem startRunsStoppedCounter : Obligations.StartRunsStoppedCounter :=
  fun _ _ hlast => ⟨exec_start_stopped hlast, exec_start_running hlast⟩

/-- Settles O41. -/
theorem stopStopsAndDisarms : Obligations.StopStopsAndDisarms := exec_stop

/-- Settles O42. -/
theorem resetHasThreeEffects : Obligations.ResetHasThreeEffects := fun _ _ hlast => exec_reset hlast

/-- Settles O43. -/
theorem setlimitAndLoadWriteOneField : Obligations.SetlimitAndLoadWriteOneField :=
  fun s v => ⟨exec_setlimit v s, exec_load v s⟩

/-- Settles O44. -/
theorem setmodeWritesMode : Obligations.SetmodeWritesMode :=
  fun s => ⟨exec_setmode (m := .sawtooth) rfl s, exec_setmode (m := .triangle) rfl s,
    exec_setmode (m := .countdown) rfl s, exec_of_illFormed rfl s⟩

/-! ## Read-out -/

theorem exec_read (s : State) :
    exec .read s = .next { s with out := ⟨.ok, false, 0, visible s.count s.limit s.mode⟩ } := rfl

theorem visible_of_ne_triangle {mode : Mode} (hmode : mode ≠ .triangle) (count limit : Word) :
    visible count limit mode = count := by
  cases mode with
  | sawtooth => rfl
  | triangle => exact absurd rfl hmode
  | countdown => rfl

theorem visible_triangle_of_le {count limit : Word} (h : count ≤ limit) :
    visible count limit .triangle = count := if_pos h

/-- Above `2*limit` the fold has nothing left to show. -/
theorem visible_triangle_of_lt {count limit : Word} (h : 2 * limit.toNat < count.toNat) :
    visible count limit .triangle = 0 := by
  apply BitVec.eq_of_toNat_eq
  rw [visible_triangle_toNat, Nat.sub_eq_zero_of_le h.le]
  exact Nat.min_zero _

/-- Settles O45. -/
theorem readReturnsVisibleValue : Obligations.ReadReturnsVisibleValue := by
  intro s
  refine ⟨_, exec_read s, fun hplain => ?_, fun hmode habove hspan => ?_, fun hmode hover => ?_⟩
  · by_cases hmode : s.mode = .triangle
    · rw [hmode, visible_triangle_of_le (hplain.resolve_left (not_not_intro hmode))]
    · exact visible_of_ne_triangle hmode _ _
  · have habove : s.limit.toNat < s.count.toNat := habove
    rw [hmode, visible_triangle_toNat]
    omega
  · rw [hmode, visible_triangle_of_lt hover]

/-- R112 for a selector that names a field; `exec_of_illFormed` is the other case. -/
theorem exec_rdf {sel : BitVec 4} {v : Word} (hsel : readField s sel = some v) :
    exec (.rdf sel) s = .next { s with out := ⟨.ok, false, 0, v⟩ } := by
  simp only [exec, execRdf, hsel, complete]

/-- The 2-bit mode field, zero-extended (R18). -/
theorem modeTag_zeroExtend (m : Mode) :
    (modeTag m).zeroExtend 64 = match m with | .sawtooth => 0 | .triangle => 1 | .countdown => 2 := by
  cases m <;> rfl

/-- Settles O47: only `mode` and `status` are written in the statement otherwise than they are read out. -/
theorem rdfReturnsSelectedField : Obligations.RdfReturnsSelectedField := by
  intro s
  have hmode : readField s 5 = some (match s.mode with | .sawtooth => 0 | .triangle => 1 | .countdown => 2) :=
    congrArg some (modeTag_zeroExtend s.mode)
  have hstatus : readField s 8 = some (BitVec.ofNat 64 s.status.toNat) :=
    congrArg some (BitVec.ofNat_toNat 64 s.status).symm
  refine ⟨exec_rdf rfl, exec_rdf rfl, exec_rdf rfl, exec_rdf rfl, exec_rdf rfl, exec_rdf hmode, exec_rdf rfl,
    exec_rdf rfl, exec_rdf hstatus, fun sel hsel => ?_⟩
  have hreserved : (Instr.rdf sel).wellFormed = false := decide_eq_false (Nat.not_le.2 hsel)
  exact exec_of_illFormed hreserved s

end Sys2Proof.Machine

end

/-! # Armed only while running (R106, R92) -/

section

namespace Sys2Proof.Machine

variable {s t : State} {i : Instr}

/-- Only `REARM` arms, and only a running counter; only `STOP` stops, and it disarms. -/
theorem exec_keeps_armedOnlyRunning (hs : ArmedOnlyRunning s) (h : exec i s = .next t) :
    ArmedOnlyRunning t := by
  obtain hc | ⟨e, -, rfl⟩ := exec_next_cases h
  · cases hc with
    | rearmArmed _ hrun => exact fun _ => hrun
    | startStopped => exact fun _ => rfl
    | rearmStopped => exact Bool.noConfusion
    | rearmUnconfigured => exact Bool.noConfusion
    | expire => exact Bool.noConfusion
    | cancel => exact Bool.noConfusion
    | stop => exact Bool.noConfusion
    | _ => exact hs
  · exact hs

/-- Settles O51: an operation keeps it, and a refused byte changes neither field. -/
theorem armedOnlyWhileRunning : Obligations.ArmedOnlyWhileRunning := by
  intro s t hs h
  obtain ⟨-, rfl⟩ | ⟨b, rest, i, -, -, h⟩ | ⟨b, rest, e, -, -, h⟩ := step_next_cases h
  · exact hs
  · exact exec_keeps_armedOnlyRunning (s := { s with pending := rest }) hs h
  · cases (raise_next_iff _ _ _).1 h
    exact hs

end Sys2Proof.Machine

end

/-! # `DISABLE` (R113, R129)

The opening `ACTUALIZE` brings a sequence to its `now`, and whatever the adapter's reaction the sequence
stays there. So `DISABLE` ends in a stopped, unarmed counter at `now`, which a second one leaves as it is. -/

section

namespace Sys2Proof.Machine

variable {s t : State} {now : Word} {r : Run} {i : Instr}

/-- A sequence that is still going after a primitive was going before it, and the primitive completed. -/
theorem Run.issue_completed (h : (r.issue i).ended = false) :
    r.ended = false ∧ exec i r.state = .next (r.issue i).state ∧ (r.issue i).state.out.err = .ok := by
  cases hended : r.ended with
  | true => simp [Run.issue, hended] at h
  | false =>
    cases hexec : exec i r.state with
    | next t =>
      rw [r.issue_of_next i t hended hexec] at h ⊢
      exact ⟨rfl, rfl, by simpa using h⟩
    | fault => simp [Run.issue, hended, hexec] at h
    | refused => simp [Run.issue, hended, hexec] at h

/-- A sequence that is still going has brought the counter to `now` (R135). -/
def Run.AtTime (now : Word) (r : Run) : Prop := r.ended = false → r.state.last = now

/-- `ACTUALIZE now` brings any sequence to `now`. -/
theorem Run.atTime_issue_actualize (r : Run) (now num den : Word) :
    (r.issue (.actualize now num den)).AtTime now := by
  intro hgoing
  obtain ⟨-, hexec, hok⟩ := Run.issue_completed hgoing
  generalize (r.issue (.actualize now num den)).state = t at hexec hok
  cases completes_of_err_ok hexec hok <;> rfl

/-- A reaction is at the sequence's own `now`, or has no time (R134, R135). -/
theorem reaction_keeps_time (x : Reaction) (h : exec (x.instr now) s = .next t) (hlast : s.last = now) :
    t.last = now := by
  obtain hc | ⟨e, -, rfl⟩ := exec_next_cases h
  · cases x with
    | config w => cases w <;> cases hc <;> exact hlast
    | stop => cases hc; exact hlast
    | reset => cases hc; rfl
    | start =>
      cases hc with
      | startStopped => rfl
      | startRunning => exact hlast
  · exact hlast

theorem Run.AtTime.issue_reaction (h : r.AtTime now) (x : Reaction) : (r.issue (x.instr now)).AtTime now := by
  intro hgoing
  obtain ⟨hbefore, hexec, -⟩ := Run.issue_completed hgoing
  exact reaction_keeps_time x hexec (h hbefore)

theorem Run.AtTime.window (h : r.AtTime now) (reaction : List Reaction) :
    (r.window (reaction.map (Reaction.instr now))).AtTime now := by
  unfold Run.window
  split
  · refine List.foldlRecOn (motive := Run.AtTime now) _ Run.issue h fun r hr i hi => ?_
    obtain ⟨x, -, rfl⟩ := List.mem_map.1 hi
    exact hr.issue_reaction x
  · exact h

theorem Run.window_of_no_event (h : r.state.out.event = false) (reaction : List Instr) :
    r.window reaction = r := if_neg (by simp [h])

theorem disable_run (now : Word) (q : Ratio) (reaction : List Reaction) (s : State) :
    (PseudoOp.disable now q).run reaction s =
      (((Run.begin s).issue (.actualize now q.num q.den)).window
        (reaction.map (Reaction.instr now))).issue .stop := rfl

/-- What a `DISABLE` that ran to its end has set. -/
theorem disable_sets {q : Ratio} {reaction : List Reaction}
    (hr : (PseudoOp.disable now q).run reaction s = r) (hgoing : r.ended = false) :
    r.state.running = false ∧ r.state.armed = false ∧ r.state.last = now ∧ r.state.out = .plain := by
  rw [disable_run] at hr
  subst hr
  obtain ⟨hbefore, hstop, -⟩ := Run.issue_completed hgoing
  have htime := ((Run.begin s).atTime_issue_actualize now q.num q.den).window reaction
  rw [exec_stop, completeOk_next_iff] at hstop
  rw [hstop]
  exact ⟨rfl, rfl, htime hbefore, rfl⟩

/-- On a state where all that is set already, each primitive of `DISABLE` has no effect, and no event opens
the window. -/
theorem disable_state_of_set (hrun : s.running = false) (harmed : s.armed = false) (hlast : s.last = now)
    (hout : s.out = .plain) (q : Ratio) (reaction : List Reaction) :
    ((PseudoOp.disable now q).run reaction s).state = s := by
  have hactualize : exec (.actualize now q.num q.den) s = .next s := by
    rw [exec_actualize_stopped (hlast ▸ BitVec.le_refl _) hrun, completeOk_next_iff, ← hlast, ← hout]
  have hstop : exec .stop s = .next s := by
    rw [exec_stop, completeOk_next_iff]
    cases s
    cases hrun
    cases harmed
    cases hout
    rfl
  have hok : (s.out.err != .ok) = false := by rw [hout]; rfl
  have hevent : s.out.event = false := by rw [hout]; rfl
  rw [disable_run, (Run.begin s).issue_of_next _ s rfl hactualize, Run.window_of_no_event hevent,
    Run.issue_of_next _ _ s hok hstop]

/-- Settles O58: the first `DISABLE` sets all that a second one would. -/
theorem disableStopsIdempotently : Obligations.DisableStopsIdempotently := by
  intro s now q q' reaction reaction' t hgoing
  obtain ⟨hrun, harmed, hlast, hout⟩ := disable_sets rfl hgoing
  exact ⟨hrun, harmed, disable_state_of_set hrun harmed hlast hout q' reaction'⟩

end Sys2Proof.Machine

end

/-! # A sequence ends at its `now` (R135)

`last` moves only to an operation's own time (`exec_keeps_time`), and every primitive of an expansion
carries the `now` of the sequence. So from the `ACTUALIZE` that each expansion holds, a sequence that is
still going stays at its `now`, whatever the adapter's reaction. -/

section

namespace Sys2Proof

/-- The operation carries the time `now`, or has no time operand (R52, R135). -/
def Instr.IssuedAt (now : Word) : Instr → Prop
  | .actualize time _ _ => time = now
  | .rearm time _ _ => time = now
  | .expire time => time = now
  | .start time => time = now
  | .reset time => time = now
  | _ => True

section

variable {now time : Word}

@[simp] theorem Instr.actualize_issuedAt_iff (num den : Word) :
    (Instr.actualize time num den).IssuedAt now ↔ time = now := Iff.rfl
@[simp] theorem Instr.rearm_issuedAt_iff (num den : Word) :
    (Instr.rearm time num den).IssuedAt now ↔ time = now := Iff.rfl
@[simp] theorem Instr.expire_issuedAt_iff : (Instr.expire time).IssuedAt now ↔ time = now := Iff.rfl
@[simp] theorem Instr.start_issuedAt_iff : (Instr.start time).IssuedAt now ↔ time = now := Iff.rfl
@[simp] theorem Instr.reset_issuedAt_iff : (Instr.reset time).IssuedAt now ↔ time = now := Iff.rfl
@[simp] theorem Instr.stop_issuedAt : Instr.stop.IssuedAt now := trivial
@[simp] theorem Instr.setlimit_issuedAt (v : Word) : (Instr.setlimit v).IssuedAt now := trivial
@[simp] theorem Instr.setmode_issuedAt (tag : BitVec 2) : (Instr.setmode tag).IssuedAt now := trivial
@[simp] theorem Instr.load_issuedAt (v : Word) : (Instr.load v).IssuedAt now := trivial
@[simp] theorem Instr.read_issuedAt : Instr.read.IssuedAt now := trivial

end

end Sys2Proof

namespace Sys2Proof.Machine

variable {s t : State} {now : Word} {r : Run} {i : Instr}

/-- `last` moves only to an operation's own time (R16). -/
theorem exec_keeps_time (h : exec i s = .next t) (hi : i.IssuedAt now) (hlast : s.last = now) :
    t.last = now := by
  obtain hc | ⟨e, -, rfl⟩ := exec_next_cases h
  · cases hc with
    | actualizeStopped => exact hi
    | actualizeUnconfigured => exact hi
    | actualizeConverted => exact hi
    | startStopped => exact hi
    | reset => exact hi
    | _ => exact hlast
  · exact hlast

theorem Run.AtTime.issue (h : r.AtTime now) (hi : i.IssuedAt now) : (r.issue i).AtTime now := by
  intro hgoing
  obtain ⟨hbefore, hexec, -⟩ := Run.issue_completed hgoing
  exact exec_keeps_time hexec hi (h hbefore)

/-- A stage whose own primitive is issued at the sequence's time keeps the sequence there. -/
theorem Run.AtTime.stage (h : r.AtTime now) (reaction : List Reaction) {st : Stage}
    (hst : ∀ i, st.instr? = some i → i.IssuedAt now) :
    (r.stage (reaction.map (Reaction.instr now)) st).AtTime now := by
  cases st with
  | issue i => exact h.issue (hst i rfl)
  | window => exact h.window reaction
  | issueIfReacted i =>
    change (if r.reacted then r.issue i else r).AtTime now
    split
    · exact h.issue (hst i rfl)
    · exact h

/-! ## The expansions -/

@[simp] theorem ConfigWrite.instr_issuedAt (w : ConfigWrite) : w.instr.IssuedAt now := by
  cases w with
  | setLimit v => exact Instr.setlimit_issuedAt v
  | setMode m => exact Instr.setmode_issuedAt (modeTag m)
  | load v => exact Instr.load_issuedAt v

@[simp] theorem ResetWrite.instr_issuedAt (w : ResetWrite) : w.instr.IssuedAt now := by
  cases w with
  | config c => exact c.instr_issuedAt
  | stop => exact Instr.stop_issuedAt

/-- Every primitive of an expansion carries the sequence's one `now`, or no time (R135). -/
theorem PseudoOp.expand_issuedAt (p : PseudoOp) :
    ∀ st ∈ p.expand, ∀ i, st.instr? = some i → i.IssuedAt p.now := by
  cases p with
  | configWrite now rOld rNew writes =>
    simp [PseudoOp.expand, PseudoOp.now, Stage.instr?, stageActualize, stageRearm, or_imp,
      forall_and]
  | deviceReset now q writes =>
    simp [PseudoOp.expand, PseudoOp.now, Stage.instr?, stageActualize, stageRearm, or_imp,
      forall_and]
  | reclock now rOld rNew discard =>
    cases discard <;>
      simp [PseudoOp.expand, PseudoOp.now, Stage.instr?, stageActualize, stageRearm]
  | _ => simp [PseudoOp.expand, PseudoOp.now, Stage.instr?, stageActualize, stageRearm]

/-- Every expansion has an `ACTUALIZE` at the sequence's `now` (R125). -/
theorem PseudoOp.expand_actualizes (p : PseudoOp) :
    ∃ opening num den rest, p.expand = opening ++ .issue (.actualize p.now num den) :: rest := by
  cases p with
  | deadlineCallback now q => exact ⟨[.issue (.expire now)], q.num, q.den, _, rfl⟩
  | _ => exact ⟨[], _, _, _, rfl⟩

/-- Settles O56: the `ACTUALIZE` brings the sequence to its `now`, and every later stage keeps it there. -/
theorem sequenceEndsAtItsTime : Obligations.SequenceEndsAtItsTime := by
  intro p reaction s
  change (p.run reaction s).AtTime p.now
  obtain ⟨opening, num, den, rest, hexpand⟩ := p.expand_actualizes
  have hissued : ∀ st ∈ rest, ∀ i, st.instr? = some i → i.IssuedAt p.now := fun st hst =>
    p.expand_issuedAt st (by simp [hexpand, hst])
  rw [PseudoOp.run, hexpand, List.foldl_append, List.foldl_cons]
  exact List.foldlRecOn rest _ (Run.atTime_issue_actualize _ p.now num den) fun r hr st hst =>
    hr.stage reaction (hissued st hst)

end Sys2Proof.Machine

end

/-! # `ENABLE` and the host's callback (R128, R133)

On the paths of R128 and R133 every primitive returns `OK`, so each of the two runs is written out once, from
the outcomes of its primitives; the obligations then say what those outcomes are. -/

section

namespace Sys2Proof.Machine

variable {s t : State} {now num den : Word} {q : Ratio} {i : Instr}

/-- A primitive that returns `OK` lets the sequence go on. -/
theorem Run.issue_of_ok {results : List Results} {reacted : Bool} (h : exec i s = .next t)
    (hok : t.out.err = .ok) :
    Run.issue ⟨s, results, reacted, false⟩ i = ⟨t, results ++ [t.out], reacted, false⟩ := by
  rw [Run.issue_of_next _ i t rfl h, hok]
  rfl

/-- An adapter that does not react changes nothing. -/
theorem Run.window_nil (r : Run) : r.window [] = r := by
  simp [Run.window, sameFields]

/-- `REARM` on a running counter with a configured ratio, where the deadline fits (R93 to R95). -/
theorem exec_rearm_armed (hlast : s.last ≤ now) (hrun : s.running = true) (hratio : Configured num den)
    (hfit : deadline now num den s ≤ MAX64) :
    exec (.rearm now num den) s =
      .next { s with armed := true, target := BitVec.ofNat 64 (deadline now num den s), out := .plain } := by
  rw [exec_rearm_configured hlast hrun ((unconfigured_eq_false_iff num den).2 hratio), armAt_of_le hfit]

/-- `ACTUALIZE` on a running Countdown counter at its boundary or past it (R78). -/
theorem exec_actualize_countdown_due (hlast : s.last ≤ now) (hrun : s.running = true)
    (hfit : cyclesAt now s ≤ MAX64) (hratio : Configured num den) (hmode : s.mode = .countdown)
    (hdue : s.count.toNat ≤ (conversion now num den s).ticks) :
    exec (.actualize now num den) s = .next { s with
      last := now
      acc := BitVec.ofNat 64 (conversion now num den s).acc
      count := 0
      out := ⟨.ok, true, BitVec.ofNat 128 (conversion now num den s).ticks, 0⟩ } := by
  have hadv : advanced now num den s = ⟨0, true⟩ := by
    rw [advanced, hmode]
    exact if_pos hdue
  exact exec_actualize_of_advanced hlast hrun hfit hratio hadv (Nat.zero_le _)

/-- `ENABLE` whose primitives all return `OK`, with no event. -/
theorem enable_run_of_ok {s₁ s₂ s₃ : State}
    (hactualize : exec (.actualize now q.num q.den) s = .next s₁) (hok₁ : s₁.out.err = .ok)
    (hevent : s₁.out.event = false) (hstart : exec (.start now) s₁ = .next s₂) (hok₂ : s₂.out.err = .ok)
    (hrearm : exec (.rearm now q.num q.den) s₂ = .next s₃) (hok₃ : s₃.out.err = .ok)
    (reaction : List Reaction) :
    (PseudoOp.enable now q).run reaction s = ⟨s₃, [s₁.out, s₂.out, s₃.out], false, false⟩ := by
  change ((((Run.mk s [] false false).issue (.actualize now q.num q.den)).window
    (reaction.map (Reaction.instr now))).issue (.start now)).issue (.rearm now q.num q.den) = _
  rw [Run.issue_of_ok hactualize hok₁, Run.window_of_no_event hevent, Run.issue_of_ok hstart hok₂,
    Run.issue_of_ok hrearm hok₃]
  rfl

/-- Settles O57: `ACTUALIZE` only moves `last`, so no event opens the window; `START` sets `running`, and
`REARM` arms from the count and the cycles that persist. -/
theorem enableStartsAndArms : Obligations.EnableStartsAndArms := by
  intro s now q reaction hlast hrun hratio t hfit
  have hactualize : exec (.actualize now q.num q.den) s = .next { s with last := now, out := .plain } :=
    exec_actualize_stopped hlast hrun
  have hstart : exec (.start now) { s with last := now, out := .plain } =
      .next { s with last := now, running := true, out := .plain } :=
    exec_start_stopped (BitVec.le_refl now) hrun
  have hrearm : exec (.rearm now q.num q.den) { s with last := now, running := true, out := .plain } =
      .next { s with last := now, running := true, armed := true
                     target := BitVec.ofNat 64 t, out := .plain } :=
    exec_rearm_armed (BitVec.le_refl now) rfl hratio hfit
  rw [enable_run_of_ok hactualize rfl rfl hstart rfl hrearm rfl reaction]
  exact ⟨rfl, rfl⟩

/-- At 0 a Countdown counter is armed a whole period of `limit` ticks ahead (R90, R93). -/
theorem exec_rearm_countdown_zero {w : Nat} (hlast : s.last ≤ now) (hrun : s.running = true)
    (hratio : Configured num den) (hmode : s.mode = .countdown) (hcount : s.count = 0)
    (hwait : waitCycles s.limit.toNat num.toNat den.toNat s.acc.toNat = w)
    (hfit : now.toNat + w ≤ MAX64) :
    exec (.rearm now num den) s =
      .next { s with armed := true, target := BitVec.ofNat 64 (now.toNat + w), out := .plain } := by
  have hticks : ticksToArm s.mode s.limit.toNat s.count.toNat = s.limit.toNat := by
    rw [hmode, hcount, ticksToArm_countdown]
    rfl
  have hdeadline : deadline now num den s = now.toNat + w := by rw [deadline, hticks, hwait]
  rw [exec_rearm_armed hlast hrun hratio (hdeadline ▸ hfit), hdeadline]

/-- `DEADLINE_CALLBACK` whose primitives all return `OK`, with no reaction. -/
theorem deadlineCallback_run_of_ok {s₁ s₂ s₃ : State}
    (hexpire : exec (.expire now) s = .next s₁) (hok₁ : s₁.out.err = .ok)
    (hactualize : exec (.actualize now q.num q.den) s₁ = .next s₂) (hok₂ : s₂.out.err = .ok)
    (hrearm : exec (.rearm now q.num q.den) s₂ = .next s₃) (hok₃ : s₃.out.err = .ok) :
    (PseudoOp.deadlineCallback now q).run [] s = ⟨s₃, [s₁.out, s₂.out, s₃.out], false, false⟩ := by
  change ((((Run.mk s [] false false).issue (.expire now)).issue
    (.actualize now q.num q.den)).window []).issue (.rearm now q.num q.den) = _
  rw [Run.issue_of_ok hexpire hok₁, Run.issue_of_ok hactualize hok₂, Run.window_nil,
    Run.issue_of_ok hrearm hok₃]
  rfl

/-- The host may deliver an expiry exactly when a deadline is armed and due (R98, R102). -/
theorem hostMayExpire_iff : hostMayExpire now s = true ↔ s.armed = true ∧ s.target ≤ now := by
  simp [hostMayExpire]

/-- Settles O59: `EXPIRE` consumes the deadline, `ACTUALIZE` brings the count to 0 with the event, and
`REARM` finds nothing remaining and arms a whole period. -/
theorem callbackDeliversCountdownEvent : Obligations.CallbackDeliversCountdownEvent := by
  intro s now q hmode hrun hratio hmay hlast hfit a T a' w hdue hdeadline
  obtain ⟨harmed, htarget⟩ := hostMayExpire_iff.1 hmay
  have hexpire : exec (.expire now) s = .next { s with armed := false, out := .plain } :=
    expireConsumesDueDeadline s now hlast harmed htarget
  have hactualize : exec (.actualize now q.num q.den) { s with armed := false, out := .plain } =
      .next { s with count := 0, acc := BitVec.ofNat 64 a', last := now, armed := false
                     out := ⟨.ok, true, BitVec.ofNat 128 T, 0⟩ } :=
    exec_actualize_countdown_due hlast hrun hfit hratio hmode hdue
  have hwait : waitCycles s.limit.toNat q.num.toNat q.den.toNat (BitVec.ofNat 64 a').toNat = w := by
    rw [toNat_ofNat_of_le_MAX64 ((convert_acc_le s.remRound a _ _).trans hfit)]
  exact deadlineCallback_run_of_ok hexpire rfl hactualize rfl
    (exec_rearm_countdown_zero (BitVec.le_refl now) hrun hratio hmode rfl hwait hdeadline) rfl

end Sys2Proof.Machine

end

/-! # Events and errors (R140 to R150)

Beside `exec_next_cases`: what completing means for the results, when the counting modes report a boundary,
and one equation for each path that ends in a raise. -/

section

namespace Sys2Proof.Machine

variable {s t : State} {i : Instr} {now num den : Word}

/-! ## Raises -/

theorem Completes.err_eq_ok (h : Completes s i t) : t.out.err = .ok := by
  cases h <;> rfl

/-- An operation that answers an error raised it. -/
theorem raises_of_err_ne_ok (h : exec i s = .next t) (herr : t.out.err ≠ .ok) : Raises s t :=
  (exec_next_cases h).resolve_left fun hc => herr hc.err_eq_ok

theorem Raises.event_eq_false (h : Raises s t) : t.out.event = false := by
  obtain ⟨e, -, rfl⟩ := h
  rfl

/-- Settles O25: the bits of the statement are those of `Err.statusBit`. -/
theorem raiseChangesOneStickyBit : Obligations.RaiseChangesOneStickyBit := by
  intro i s t h herr
  obtain ⟨e, -, rfl⟩ := raises_of_err_ne_ok h herr
  cases e <;> rfl

/-- The check that the operations with a `now` operand begin with (R145). -/
theorem timed_of_regression {o : Outcome} (h : now < s.last) :
    (if now < s.last then raise .timeRegression s else o) = .next (raised s 0b00001 .timeRegression) :=
  if_pos h

/-- Settles O26: each of the five meanings begins with that check. -/
theorem timeRegressionRejected : Obligations.TimeRegressionRejected :=
  fun _ _ _ _ h => ⟨timed_of_regression h, timed_of_regression h, timed_of_regression h,
    timed_of_regression h, timed_of_regression h⟩

/-- Settles O27: the check on the cycles comes before the one on the ratio. -/
theorem actualizeOverflowOfCycles : Obligations.ActualizeOverflowOfCycles := by
  intro s now num den hlast hrun hover
  have hcycles : MAX64 < cyclesAt now s := hover
  rw [exec_actualize, execActualize, if_neg (BitVec.not_lt.2 hlast), if_neg (by simp [hrun]), if_pos hcycles]
  rfl

/-- Settles O36. -/
theorem spuriousExpireRaised : Obligations.SpuriousExpireRaised := by
  intro s now hlast hspurious
  rw [exec, execExpire, if_neg (BitVec.not_lt.2 hlast), if_pos hspurious]
  rfl

/-- Settles O53: a step with a bundle to execute answers whether its byte is legal or not (O4). -/
theorem everyStepAnswersNext : Obligations.EveryStepAnswersNext := by
  intro s
  cases hp : s.pending with
  | nil => exact ⟨s, step_of_nothing_pending hp⟩
  | cons b rest =>
    obtain ⟨t, ht, -⟩ := illegalBytesRaiseIllegalCommand s b rest hp
    exact ⟨t, ht⟩

/-! ## `STALL_LOGGED` (R150) -/

theorem unconfigured_eq_true_iff (num den : Word) : unconfigured num den = true ↔ num = 0 ∨ den = 0 := by
  simp [unconfigured]

/-- `i` presents an unconfigured ratio. -/
abbrev PresentsUnconfigured (i : Instr) : Prop :=
  ∃ now num den : Word, (num = 0 ∨ den = 0) ∧ (i = .actualize now num den ∨ i = .rearm now num den)

theorem actualize_presentsUnconfigured_iff :
    PresentsUnconfigured (.actualize now num den) ↔ unconfigured num den = true := by
  rw [unconfigured_eq_true_iff]
  constructor
  · rintro ⟨_, _, _, hratio, h | h⟩
    · cases h
      exact hratio
    · cases h
  · exact fun hratio => ⟨now, num, den, hratio, .inl rfl⟩

theorem rearm_presentsUnconfigured_iff :
    PresentsUnconfigured (.rearm now num den) ↔ unconfigured num den = true := by
  rw [unconfigured_eq_true_iff]
  constructor
  · rintro ⟨_, _, _, hratio, h | h⟩
    · cases h
    · cases h
      exact hratio
  · exact fun hratio => ⟨now, num, den, hratio, .inr rfl⟩

/-- `STALL_LOGGED` is no error's bit. -/
theorem Err.statusBit_stall (e : Err) : e.statusBit.getLsbD 4 = false := by
  cases e <;> rfl

/-- A completing operation logs the stall, or leaves `status` alone. -/
theorem Completes.status_cases (h : Completes s i t) :
    (t.status = s.status ||| stallLogged ∧ s.running = true ∧ PresentsUnconfigured i) ∨
    (t.status = s.status ∧ ¬ (s.running = true ∧ PresentsUnconfigured i)) := by
  cases h with
  | actualizeUnconfigured _ hrun _ hratio =>
    exact .inl ⟨rfl, hrun, actualize_presentsUnconfigured_iff.2 hratio⟩
  | rearmUnconfigured _ hrun hratio =>
    exact .inl ⟨rfl, hrun, rearm_presentsUnconfigured_iff.2 hratio⟩
  | actualizeStopped _ hrun => exact .inr ⟨rfl, fun hstall => by simp [hrun] at hstall⟩
  | rearmStopped _ hrun => exact .inr ⟨rfl, fun hstall => by simp [hrun] at hstall⟩
  | actualizeConverted _ _ _ hratio =>
    exact .inr ⟨rfl, fun hstall => by simp [actualize_presentsUnconfigured_iff, hratio] at hstall⟩
  | rearmArmed _ _ hratio =>
    exact .inr ⟨rfl, fun hstall => by simp [rearm_presentsUnconfigured_iff, hratio] at hstall⟩
  | _ => exact .inr ⟨rfl, by simp⟩

/-- Settles O29: a raise sets another bit. -/
theorem stallLoggedOnUnconfiguredRatio : Obligations.StallLoggedOnUnconfiguredRatio := by
  intro i s t h hclear
  obtain hc | ⟨e, he, rfl⟩ := exec_next_cases h
  · obtain ⟨hstatus, hstall⟩ | ⟨hstatus, hquiet⟩ := hc.status_cases
    · exact iff_of_true (by simp [hstatus, stallLogged]) ⟨hc.err_eq_ok, hstall⟩
    · have hkept : t.status.getLsbD 4 = false := by rw [hstatus, hclear]
      exact iff_of_false (Bool.eq_false_iff.1 hkept) fun hstall => hquiet hstall.2
  · have hkept : (raised s e.statusBit e).status.getLsbD 4 = false := by
      rw [raised, BitVec.getLsbD_or, hclear, e.statusBit_stall, Bool.or_false]
    exact iff_of_false (Bool.eq_false_iff.1 hkept) fun hstall => he hstall.1

/-! ## Events (R140, R141) -/

/-- The conditions of R141's table, for `ticks` ticks applied to `count` with effective limit `e`. -/
abbrev BoundaryCrossed (mode : Mode) (e count ticks : Nat) : Prop :=
  (mode = .countdown ∧ count ≤ ticks) ∨ (mode ≠ .countdown ∧ 1 ≤ e ∧ e < count + ticks) ∨
    (mode ≠ .countdown ∧ e = 0 ∧ ticks ≠ 0)

section

variable {mode : Mode} {limit count ticks : Nat}

theorem advance_of_ne_countdown (hmode : mode ≠ .countdown) :
    advance mode limit count ticks = advanceUp (effectiveLimit mode limit) count ticks := by
  cases mode with
  | sawtooth => rfl
  | triangle => rfl
  | countdown => exact absurd rfl hmode

/-- R141's table is what the counting modes report. -/
theorem advance_event_iff : (advance mode limit count ticks).event = true ↔
    BoundaryCrossed mode (effectiveLimit mode limit) count ticks := by
  by_cases hmode : mode = .countdown
  · subst hmode
    exact (advanceDown_event_iff count ticks).trans (by simp [BoundaryCrossed])
  · rw [advance_of_ne_countdown hmode, advanceUp_event_iff]
    simp [BoundaryCrossed, hmode, Nat.one_le_iff_ne_zero, or_comm]

theorem advanceDown_count_of_event (h : (advanceDown count ticks).event = true) :
    (advanceDown count ticks).count = 0 := by
  rw [advanceDown, if_pos ((advanceDown_event_iff _ _).1 h)]

theorem advanceUp_count_of_event {e : Nat} (h : (advanceUp e count ticks).event = true) :
    (advanceUp e count ticks).count = if e = 0 then 0 else (count + ticks) % (e + 1) := by
  obtain ⟨rfl, -⟩ | ⟨he, hwrap⟩ := (advanceUp_event_iff _ _ _).1 h
  · rw [advanceUp_zero, if_pos rfl]
  · rw [advanceUp_of_ne_zero he, if_neg he]
    exact if_pos hwrap

/-- The count after an event, by R141's table. -/
theorem advance_count_of_event (h : (advance mode limit count ticks).event = true) :
    (advance mode limit count ticks).count =
      if mode = .countdown ∨ effectiveLimit mode limit = 0 then 0
      else (count + ticks) % (effectiveLimit mode limit + 1) := by
  by_cases hmode : mode = .countdown
  · subst hmode
    exact advanceDown_count_of_event h
  · rw [advance_of_ne_countdown hmode] at h ⊢
    simp [advanceUp_count_of_event h, hmode]

end

/-- Only a running, configured `ACTUALIZE` that completed returns an event (R140). -/
theorem converted_of_event (h : exec i s = .next t) (hevent : t.out.event = true) :
    (∃ now num den, i = .actualize now num den ∧ Configured num den) ∧ t.out.err = .ok ∧
      s.running = true := by
  obtain hc | hr := exec_next_cases h
  · cases hc with
    | actualizeConverted _ hrun _ hratio =>
      exact ⟨⟨_, _, _, rfl, (unconfigured_eq_false_iff _ _).1 hratio⟩, rfl, hrun⟩
    | _ => exact Bool.noConfusion hevent
  · simp [hr.event_eq_false] at hevent

/-- The event and the count are those of the counting mode at the ticks reported, which fit the port (R84). -/
theorem actualize_eq_advance_ticks (hrun : s.running = true) (hratio : Configured num den)
    (h : exec (.actualize now num den) s = .next t) (hok : t.out.err = .ok) :
    t.out.event = (advance s.mode s.limit.toNat s.count.toNat t.out.ticks.toNat).event ∧
      t.count.toNat = (advance s.mode s.limit.toNat s.count.toNat t.out.ticks.toNat).count := by
  have hticks : t.out.ticks.toNat = (conversion t.last num den s).ticks :=
    (convertedTo_of_exec hratio hrun h hok).ticks
  obtain ⟨-, hcount, rfl⟩ := actualize_converted hrun hratio h hok
  rw [hticks]
  exact ⟨rfl, toNat_ofNat_of_le_MAX64 hcount⟩

/-- Settles O24: an event comes from the counting modes alone, and they follow R141's table. -/
theorem eventExactlyWhenBoundaryCrossed : Obligations.EventExactlyWhenBoundaryCrossed := by
  intro i s t h T E nc
  refine ⟨⟨fun hevent => ?_, ?_⟩, fun hevent => ?_⟩
  · obtain ⟨⟨now, num, den, rfl, hratio⟩, hok, hrun⟩ := converted_of_event h hevent
    have hadv := (actualize_eq_advance_ticks hrun hratio h hok).1
    exact ⟨⟨now, num, den, rfl, hratio⟩, hok, hrun, advance_event_iff.1 (hadv.symm.trans hevent)⟩
  · rintro ⟨⟨now, num, den, rfl, hratio⟩, hok, hrun, hcrossed⟩
    exact (actualize_eq_advance_ticks hrun hratio h hok).1.trans (advance_event_iff.2 hcrossed)
  · obtain ⟨⟨now, num, den, rfl, hratio⟩, hok, hrun⟩ := converted_of_event h hevent
    obtain ⟨hadv, hcount⟩ := actualize_eq_advance_ticks hrun hratio h hok
    exact hcount.trans (advance_count_of_event (hadv.symm.trans hevent))

end Sys2Proof.Machine

end

/-! # The start-up sequence (R169)

A plain list of primitives that each return `OK` runs to its end, and its last state is found one primitive
at a time. The start-up sequence is two such lists: the configuration, which writes `mode`, `limit` and `count`,
and the primitives of `ENABLE`, which write `last`, `running`, `armed` and `target`. -/

section

namespace Sys2Proof.Machine

variable {s t u : State} {is js : List Instr}

/-- The primitives `is`, each returning `OK`, lead from `s` to `t`. -/
inductive LeadsTo : List Instr → State → State → Prop
  | nil {s : State} : LeadsTo [] s s
  | cons {i : Instr} {is : List Instr} {s t u : State} (h : exec i s = .next t) (hok : t.out.err = .ok)
      (hrest : LeadsTo is t u) : LeadsTo (i :: is) s u

theorem LeadsTo.append (h : LeadsTo is s t) (hrest : LeadsTo js t u) : LeadsTo (is ++ js) s u := by
  induction h with
  | nil => exact hrest
  | cons hexec hok _ ih => exact .cons hexec hok (ih hrest)

/-- No primitive of such a list ends the sequence, whatever it has collected so far. -/
theorem LeadsTo.foldl_issue (h : LeadsTo is s t) (results : List Results) (reacted : Bool) :
    (is.foldl Run.issue ⟨s, results, reacted, false⟩).ended = false ∧
      (is.foldl Run.issue ⟨s, results, reacted, false⟩).state = t := by
  induction h generalizing results with
  | nil => exact ⟨rfl, rfl⟩
  | cons hexec hok _ ih =>
    rw [List.foldl_cons, Run.issue_of_ok hexec hok]
    exact ih _

theorem LeadsTo.runInstrs (h : LeadsTo is s t) :
    (runInstrs is s).ended = false ∧ (runInstrs is s).state = t :=
  h.foldl_issue [] false

/-- R169: the configuration with its optional `LOAD`, then the primitives of `ENABLE`. -/
theorem startUp_eq (m : Mode) (p : Word) (v : Option Word) (now : Word) (q : Ratio) :
    startUp m p v now q = [.setmode (modeTag m), .setlimit p] ++ (v.map Instr.load).toList ++
      [.actualize now q.num q.den, .start now, .rearm now q.num q.den] := by
  cases v <;> rfl

/-- The writes of the configuration: without a `LOAD` the count stays (R108 to R110). -/
theorem leadsTo_configured (m : Mode) (p : Word) (v : Option Word) (s : State) :
    LeadsTo ([.setmode (modeTag m), .setlimit p] ++ (v.map Instr.load).toList) s
      { s with mode := m, limit := p, count := v.getD s.count, out := .plain } := by
  have hwrites : LeadsTo [.setmode (modeTag m), .setlimit p] s { s with mode := m, limit := p, out := .plain } :=
    .cons (exec_setmode (modeOfTag_modeTag m) s) rfl (.cons (exec_setlimit p _) rfl .nil)
  refine hwrites.append ?_
  cases v with
  | none => exact .nil
  | some w => exact .cons (exec_load w _) rfl .nil

/-- The primitives of `ENABLE` on a stopped counter (R128). -/
theorem leadsTo_enabled {now num den : Word} (hlast : s.last ≤ now) (hrun : s.running = false)
    (hratio : Configured num den) (hfit : deadline now num den s ≤ MAX64) :
    LeadsTo [.actualize now num den, .start now, .rearm now num den] s
      { s with last := now, running := true, armed := true
               target := BitVec.ofNat 64 (deadline now num den s), out := .plain } :=
  .cons (exec_actualize_stopped hlast hrun) rfl <|
    .cons (exec_start_stopped (BitVec.le_refl now) hrun) rfl <|
    .cons (exec_rearm_armed (BitVec.le_refl now) rfl hratio hfit) rfl .nil

/-- Settles O60: the configuration and `ENABLE` between them write every field that creation leaves open. -/
theorem startUpIndependentOfOpenValues : Obligations.StartUpIndependentOfOpenValues := by
  intro c m p v now q hlast hratio count t hfit
  rw [startUp_eq]
  exact ((leadsTo_configured m p v (State.created c)).append
    (leadsTo_enabled hlast rfl hratio hfit)).runInstrs

end Sys2Proof.Machine

end
